-- ==== Sys2Proof/Word.lean ====
section
/-! DEFINITION. Word.lean: the word types of the bus-programming core (00_scope.md R7, R9). All values are unsigned. -/

namespace Sys2Proof

/-- A byte, the unit of transfer (R7 `DATA_W`). -/
abbrev Byte := BitVec 8

/-- A target address, 15 bits (R7 `ADDR_W`). -/
abbrev Addr := BitVec 15

/-- A counter or a status register, 32 bits (R8 `TALLY_W`). -/
abbrev Count := BitVec 32

/-- A command word, 64 bits (R8 `CMD_W`). -/
abbrev CmdWord := BitVec 64

end Sys2Proof
end

