-- ==== Sys2Proof/Config.lean ====
section
/-! DEFINITION. Config.lean: the parameters a run of the core is given (00_scope.md R8), and the free values: the
constants without a body that stand for every "draw" of the spec (93_implementation_defined.md). -/

namespace Sys2Proof

/-- The self-test strategy of R86: (a) per address, (b) per pattern. -/
inductive Strategy where
  | perAddress
  | perPattern
deriving DecidableEq, Repr, Inhabited

/-- Where commands come from (R24, D29). -/
inductive CmdSource where
  | boot
  | external
deriving DecidableEq, Repr, Inhabited

/-- What HANDOFF does with ALE, /WR and /RD (R24, D22). -/
inductive HandoffCtrl where
  | keepDriven
  | tristate
deriving DecidableEq, Repr, Inhabited

/-- The run state of the target as the core sees it (R43). -/
inductive Target where
  | held
  | running
deriving DecidableEq, Repr, Inhabited

/-- The memory device `DEV` (R57, D44): the four devices the spec defines, and `other`, whose behaviour is
uninterpreted (`Config.otherStore`, `Config.otherResp`), so that a claim for every `Device` is a claim for any `DEV`. -/
inductive Device where
  | ideal
  | stuck0 (c : Addr)
  | couple (w x : Addr)
  | alias14
  | other (id : Nat)
deriving DecidableEq, Repr, Inhabited

/-- The configuration inputs of R8, R24 and R35, fixed for a run. No command and no step writes them. `IMAGE_LEN` is
the length of `image`; `tSettle` counts host instruction cycles. -/
structure Config where
  image       : List Byte
  stStart     : Addr
  stLen       : BitVec 16
  stStrategy  : Strategy
  cmdSource   : CmdSource
  handoffCtrl : HandoffCtrl
  tSettle     : Nat
  settleOk    : Bool
  dev         : Device
deriving DecidableEq, Repr, Inhabited

/-- The defaults of R8. DESIGN CHOICE (log 3, unsafe): R8 leaves IMAGE, HANDOFF_CTRL, T_SETTLE, SETTLE_OK and DEV
open; here the image is empty and the rest is what the spec's test vectors use. -/
def Config.default : Config where
  image       := []
  stStart     := 0x0000
  stLen       := 0x8000
  stStrategy  := .perAddress
  cmdSource   := .boot
  handoffCtrl := .keepDriven
  tSettle     := 1
  settleOk    := true
  dev         := .ideal

/-! Free values (log 8, 9, 15; safe): nothing constrains them. Each but `ctrlWired` and the last two is applied to the
state's counter `drawCount`, which moves on at every use. -/

/-- A byte sampled from AD when R79's conditions do not hold (U13). -/
opaque Config.freeSample (n : Nat) : Byte

/-- The levels the address latch takes from AD wires that are floating or in contention, one for each wire (U14,
R58). -/
opaque Config.freeCaptureAD (n : Nat) : Byte

/-- The same for the seven high address wires, A14 on top (U14, R58). -/
opaque Config.freeCaptureHA (n : Nat) : BitVec 7

/-- The byte a write leaves in its cell when an AD wire is floating or in contention (U15, R59). -/
opaque Config.freeCommit (n : Nat) : Byte

/-- What a running target drives on AD wire i, true for high, `none` where it does not drive that wire (U19, R55,
R117: "it may drive any AD, AH and A14 wire"). -/
opaque Config.targetAD (n : Nat) (i : Fin 8) : Option Bool

/-- The same for the seven high address wires, AH wire i for i below 6 and A14 for i = 6 (U19, R55, R117). -/
opaque Config.targetHA (n : Nat) (i : Fin 7) : Option Bool

/-- What a running target drives on ALE, true for high, where it can drive it at all (U19, R117). -/
opaque Config.targetAle (n : Nat) : Option Bool

/-- The same for /WR. -/
opaque Config.targetWr (n : Nat) : Option Bool

/-- The same for /RD. -/
opaque Config.targetRd (n : Nat) : Option Bool

/-- What the memory device takes a /RD wire for that floats or is in contention, true for low (R55, NS9). -/
opaque Config.freeRdLow (n : Nat) : Bool

/-- Whether the platform wires ALE, /WR and /RD so that a running target may drive them with KEEP_DRIVEN too (R117). -/
opaque Config.ctrlWired : Bool

/-- The target's run state after a step that leaves /RESET floating (U18, R116). -/
opaque Config.freeTarget (n : Nat) : Target

/-- The cell an uncontrolled end of a write strobe leaves (U16, R122). -/
opaque Config.freeResetCell (n : Nat) : Byte

/-- The latch an uncontrolled end of an ALE pulse leaves (U17, R122). -/
opaque Config.freeResetLatch (n : Nat) : Addr

/-- The contents a running target leaves in EXT_MEM (U19, R117), as a list of writes over an empty memory. -/
opaque Config.targetMem (n : Nat) : List Host.Cell

/-- The address a running target leaves in EXT_LATCH (U19, R117). -/
opaque Config.targetLatch (n : Nat) : Addr

/-- ADDR_CNT at a command boundary (U26, R33). -/
opaque Config.freeAddrCnt (n : Nat) : BitVec 16

/-- PAT_IDX at a command boundary (U26, R33). -/
opaque Config.freePatIdx (n : Nat) : BitVec 2

/-- SAMPLE at a command boundary (U26, R33). -/
opaque Config.freeSampleReg (n : Nat) : Byte

/-- `DEV.store` of the device `other id` (U22, R57), as a list of writes over an empty memory. -/
opaque Config.otherStore (id : Nat) (mem : List Host.Cell) (a : Addr) (v : Byte) : List Host.Cell

/-- `DEV.resp` of the device `other id` (U22, R57). -/
opaque Config.otherResp (id : Nat) (mem : List Host.Cell) (a : Addr) : Byte

end Sys2Proof
end

