-- ==== Sys2Proof/Syntax.lean ====
section
/-! DEFINITION. Syntax.lean: the commands (30_encoding.md R67) and the assembler's lines (R72, R73). -/

namespace Sys2Proof

/-- The seven commands, one constructor per row of spec/opcode_table.json. Each operand is exactly as wide as its field
(R68), so every term is encodable; a SELFTEST length above 0x8000 is encodable and faults when it runs (R107). -/
inductive Instr where
  | latch (addr : Addr)
  | write (data : Byte)
  | read
  | selftest (start : Addr) (len : BitVec 16) (strat : Strategy)
  | program
  | verify
  | handoff
deriving DecidableEq, Repr, Inhabited

/-- One line of assembler source: a command (R72) or a pseudo-command (R73), with its numbers as written, before the
assembler has checked that they fit their fields. -/
inductive AsmLine where
  | latch (addr : Nat)
  | write (byte : Nat)
  | read
  | selftest (start len : Nat) (strat : Strategy)
  | program
  | verify
  | handoff
  | wrat (a v : Nat)
  | rdat (a : Nat)
  | testcell (a p : Nat)
  | boot
deriving DecidableEq, Repr, Inhabited

end Sys2Proof
end

