-- ==== Sys2Proof/WellFormed.lean ====
section
/-! DEFINITION. WellFormed.lean: the checks made before a run: which configurations have an instance (43_sequencer.md
R101) and which assembler lines an assembler takes (30_encoding.md R72). A decoded command needs no check of its own:
its fields have the widths of the encoding. -/

namespace Sys2Proof

/-- D44: a coupling device couples two different cells. -/
def Device.wf : Device → Bool
  | .ideal => true
  | .stuck0 _ => true
  | .couple w x => decide (w ≠ x)
  | .alias14 => true
  | .other _ => true

/-- R101: `ST_LEN ≤ 0x8000` and `IMAGE_LEN ≤ 0x8000`; with R8's range of T_SETTLE and D44's of COUPLE (log 21). -/
def Config.wf (c : Config) : Bool :=
  decide (c.stLen.toNat ≤ 0x8000) && decide (c.image.length ≤ 0x8000) && decide (1 ≤ c.tSettle) && c.dev.wf

/-- R72: an assembler refuses an operand that does not fit its field. The pseudo-commands of R73 hold the operands of
the lines they expand into. -/
def AsmLine.wf : AsmLine → Bool
  | .latch addr => decide (addr ≤ 0x7FFF)
  | .write byte => decide (byte ≤ 0xFF)
  | .read => true
  | .selftest start len _ => decide (start ≤ 0x7FFF) && decide (len ≤ 0xFFFF)
  | .program => true
  | .verify => true
  | .handoff => true
  | .wrat a v => decide (a ≤ 0x7FFF) && decide (v ≤ 0xFF)
  | .rdat a => decide (a ≤ 0x7FFF)
  | .testcell a p => decide (a ≤ 0x7FFF) && decide (p ≤ 0xFF)
  | .boot => true

end Sys2Proof
end

