-- ==== Sys2Proof/Decode.lean ====
section
/-! DEFINITION. Decode.lean: the opcode map (30_encoding.md R69), the total decoder (R70, R71) and the encoder
(R66, R67, R72). A command word reaches the block whole, as one parallel word (R50): no bytes, no byte order. -/

namespace Sys2Proof

/-- Why a word is no command (R70, R71). -/
inductive DecodeError where
  | illegalOpcode
  | reservedBits
deriving DecidableEq, Repr, Inhabited

/-- One row of R69: a word spells the command when it agrees with `value` on the bits of `mask`. -/
structure OpcodeRow where
  value : CmdWord
  mask  : CmdWord
deriving DecidableEq, Repr

def rowLatch    : OpcodeRow := ⟨0x1000_0000_0000_0000, 0xFFFF_FFFF_FFFF_8000⟩
def rowWrite    : OpcodeRow := ⟨0x2000_0000_0000_0000, 0xFFFF_FFFF_FFFF_FF00⟩
def rowRead     : OpcodeRow := ⟨0x3000_0000_0000_0000, 0xFFFF_FFFF_FFFF_FFFF⟩
def rowSelftest : OpcodeRow := ⟨0x4000_0000_0000_0000, 0xFFFE_0000_FFFF_8000⟩
def rowProgram  : OpcodeRow := ⟨0x5000_0000_0000_0000, 0xFFFF_FFFF_FFFF_FFFF⟩
def rowVerify   : OpcodeRow := ⟨0x6000_0000_0000_0000, 0xFFFF_FFFF_FFFF_FFFF⟩
def rowHandoff  : OpcodeRow := ⟨0x7000_0000_0000_0000, 0xFFFF_FFFF_FFFF_FFFF⟩

/-- The opcode map of R69. -/
def opcodeTable : List OpcodeRow :=
  [rowLatch, rowWrite, rowRead, rowSelftest, rowProgram, rowVerify, rowHandoff]

/-- The row a command is encoded by (R69). -/
def rowOf : Instr → OpcodeRow
  | .latch _ => rowLatch
  | .write _ => rowWrite
  | .read => rowRead
  | .selftest _ _ _ => rowSelftest
  | .program => rowProgram
  | .verify => rowVerify
  | .handoff => rowHandoff

def OpcodeRow.matches (r : OpcodeRow) (w : CmdWord) : Bool := decide (w &&& r.mask = r.value)

/-- STRAT, one bit (R66): 0 is strategy (a), 1 is strategy (b) (R68). -/
def strategyOfBit (b : Bool) : Strategy := if b then .perPattern else .perAddress

def bitOfStrategy : Strategy → Bool
  | .perAddress => false
  | .perPattern => true

/-- The operand fields of R68. -/
def fieldOp (w : CmdWord) : BitVec 4 := w.extractLsb' 60 4
def fieldAddr (w : CmdWord) : Addr := w.extractLsb' 0 15
def fieldData (w : CmdWord) : Byte := w.extractLsb' 0 8
def fieldLen (w : CmdWord) : BitVec 16 := w.extractLsb' 32 16
def fieldStrat (w : CmdWord) : Strategy := strategyOfBit (w.getLsbD 48)

/-- The check of the reserved bits, once the opcode has named the row (R70). -/
def decodeRow (r : OpcodeRow) (w : CmdWord) (i : Instr) : Except DecodeError Instr :=
  if r.matches w then .ok i else .error .reservedBits

/-- R70: decoding is total. The opcode is looked at first, then the reserved bits. -/
def decode (w : CmdWord) : Except DecodeError Instr :=
  match (fieldOp w).toNat with
  | 1 => decodeRow rowLatch w (.latch (fieldAddr w))
  | 2 => decodeRow rowWrite w (.write (fieldData w))
  | 3 => decodeRow rowRead w .read
  | 4 => decodeRow rowSelftest w (.selftest (fieldAddr w) (fieldLen w) (fieldStrat w))
  | 5 => decodeRow rowProgram w .program
  | 6 => decodeRow rowVerify w .verify
  | 7 => decodeRow rowHandoff w .handoff
  | _ => .error .illegalOpcode

/-- A field of `n` bits placed at bit `at'` of a command word. -/
def placeField {n : Nat} (v : BitVec n) (at' : Nat) : CmdWord := v.setWidth 64 <<< at'

/-- R72: "The encoding of a line is `MATCH | operand fields`", with the fields where R67 puts them. -/
def encode : Instr → CmdWord
  | .latch addr => rowLatch.value ||| placeField addr 0
  | .write data => rowWrite.value ||| placeField data 0
  | .read => rowRead.value
  | .selftest start len strat =>
      rowSelftest.value ||| placeField start 0 ||| placeField len 32
        ||| placeField (BitVec.ofBool (bitOfStrategy strat)) 48
  | .program => rowProgram.value
  | .verify => rowVerify.value
  | .handoff => rowHandoff.value

/-- The command word whose bits are `w`, `nbits` of them; the bits above are 0. -/
def wordOfTable (nbits w : Nat) : CmdWord := BitVec.ofNat 64 (w % 2 ^ nbits)

/-- The instruction the decoder reads from a row's word. -/
def decodeTableWord (nbits w : Nat) : Option Instr :=
  match decode (wordOfTable nbits w) with
  | .ok i => some i
  | .error _ => none

/-! The assembler (R72, R73). -/

/-- Word 0 of the boot sequence (R100): the configured self-test. -/
def bootSelftest (c : Config) : Instr := .selftest c.stStart c.stLen c.stStrategy

/-- The boot sequence of R100, in its order. -/
def bootSequence (c : Config) : List Instr := [bootSelftest c, .program, .verify, .handoff]

/-- The commands a line stands for: itself (R72), or its expansion (R73; BOOT is the boot sequence of the
configuration). -/
def AsmLine.expand (c : Config) : AsmLine → List Instr
  | .latch addr => [.latch (BitVec.ofNat 15 addr)]
  | .write byte => [.write (BitVec.ofNat 8 byte)]
  | .read => [.read]
  | .selftest start len strat => [.selftest (BitVec.ofNat 15 start) (BitVec.ofNat 16 len) strat]
  | .program => [.program]
  | .verify => [.verify]
  | .handoff => [.handoff]
  | .wrat a v => [.latch (BitVec.ofNat 15 a), .write (BitVec.ofNat 8 v)]
  | .rdat a => [.latch (BitVec.ofNat 15 a), .read]
  | .testcell a p => [.latch (BitVec.ofNat 15 a), .write (BitVec.ofNat 8 p), .read]
  | .boot => bootSequence c

/-- R72: the words of a line, or none where the assembler refuses an operand that does not fit. -/
def AsmLine.assemble (c : Config) (l : AsmLine) : Option (List CmdWord) :=
  if l.wf then some ((l.expand c).map encode) else none

end Sys2Proof
end

