-- ==== Sys2Proof/Machine/State.lean ====
section
/-! DEFINITION. Machine/State.lean: the whole state of the core and of its environment (10_state.md), the reasons a step
can stop, and the state at reset (R46). -/

namespace Sys2Proof.Machine

/-- The Bus Role of a pin group (00_scope.md R15): tri-stated input, or driven by the host. -/
inductive Role where
  | idle
  | driving
deriving DecidableEq, Repr, Inhabited

/-- The host's pin drivers, the content of status register PINS (R17 to R19, R39). A line's level is true for high. -/
structure Pins where
  adOut     : Byte
  adDir     : Role
  ahOut     : BitVec 6
  a14Out    : Bool
  haDir     : Role
  aleOut    : Bool
  wrNOut    : Bool
  rdNOut    : Bool
  resetNOut : Bool
  ctrlDir   : Role
  rstDir    : Role
deriving DecidableEq, Repr, Inhabited

/-- What one wire carries: nothing, its one driver's level, or contention (20_memory.md R55). -/
inductive Line where
  | z
  | low
  | high
  | contention
deriving DecidableEq, Repr, Inhabited

/-- What a group of `w` bus wires carries, each wire by itself, wire 0 first (R55: `wire_AD(i)`). -/
abbrev Wires (w : Nat) := Vector Line w

/-- One entry of PIN_TRACE (R45): the pin drivers and the AD wires after a micro-operation. -/
structure Snapshot where
  pins : Pins
  ad   : Wires 8
deriving DecidableEq, Repr, Inhabited

/-- Which pass a PROGRESS event belongs to (R80). -/
inductive PassKind where
  | write
  | verify
deriving DecidableEq, Repr, Inhabited

/-- The status events handed to the console sink (40_pin_primitives.md R80). -/
inductive Event where
  | stResult (pass : Bool) (errors tested : Count)
  | progress (kind : PassKind) (addr : Addr) (byte : Byte)
  | vfResult (pass : Bool) (errors checked : Count)
deriving DecidableEq, Repr, Inhabited

/-- PHASE (R21). -/
inductive Phase where
  | init
  | hostDriving
  | busReleased
  | targetRunning
deriving DecidableEq, Repr, Inhabited

/-- The fault causes (60_exceptions.md R106). Codes 7 to 15 are never reported (U7), so they have no constructor. -/
inductive FaultCause where
  | noFault
  | illegalOpcode
  | reservedBits
  | afterHandoff
  | badLength
  | writeNotArmed
  | readNoAddress
deriving DecidableEq, Repr, Inhabited

/-- The external memory's contents: (address, byte) pairs, addresses strictly rising, no pair whose byte is the one an
unlisted address reads as (Machine/Memory.lean). -/
abbrev Memory := List Host.Cell

/-- The state: the block (R17 to R33), its configuration (R24, R35), its environment (R41 to R45), and three fields of
the model's own, marked so. -/
structure State where
  /-- The configuration inputs, fixed for the run (R24, R35, R8). -/
  cfg : Config
  /-- The pin drivers (R17 to R19). -/
  pins : Pins
  /-- PHASE (R21). -/
  phase : Phase
  /-- BUSY (R22). -/
  busy : Bool
  /-- FAULT, sticky (R23). -/
  fault : Bool
  /-- FAULT_CAUSE (R23, R106). -/
  faultCause : FaultCause
  /-- FAULT_CMD (R23). -/
  faultCmd : CmdWord
  /-- BOOT_PC (R25). -/
  bootPc : BitVec 3
  /-- LATCHED_ADDR (R26). -/
  latchedAddr : Addr
  /-- ADDR_VALID (R26). -/
  addrValid : Bool
  /-- WRITE_ARMED (R27). -/
  writeArmed : Bool
  /-- LAST_READ (R28). -/
  lastRead : Byte
  /-- ERR_TALLY (R29). -/
  errTally : Count
  /-- ST_ERRORS (R30). -/
  stErrors : Count
  /-- ST_TESTED (R30). -/
  stTested : Count
  /-- ST_PASS (R30). -/
  stPass : Bool
  /-- ST_DONE (R30). -/
  stDone : Bool
  /-- PG_WRITTEN (R31). -/
  pgWritten : Count
  /-- PG_DONE (R31). -/
  pgDone : Bool
  /-- VF_ERRORS (R32). -/
  vfErrors : Count
  /-- VF_CHECKED (R32). -/
  vfChecked : Count
  /-- VF_PASS (R32). -/
  vfPass : Bool
  /-- VF_DONE (R32). -/
  vfDone : Bool
  /-- ADDR_CNT, a working register (R33). -/
  addrCnt : BitVec 16
  /-- PAT_IDX, a working register (R33). -/
  patIdx : BitVec 2
  /-- SAMPLE, a working register (R33). -/
  sample : Byte
  /-- EXT_LATCH, environment (R41). -/
  extLatch : Addr
  /-- EXT_MEM, environment (R42). -/
  extMem : Memory
  /-- TGT, environment (R43). -/
  tgt : Target
  /-- RD_SETTLED (R44). -/
  rdSettled : Bool
  /-- PIN_TRACE (R45), newest snapshot first (log 24). -/
  traceRev : List Snapshot
  /-- EVENTS (R45), newest event first (log 24). -/
  eventsRev : List Event
  /-- MODEL'S OWN (log 18): the command words the external issuer still holds (R98), the one it presents first. -/
  issuer : List CmdWord
  /-- MODEL'S OWN (log 16): the host reset that is on its way (R122): it is taken after this many more entries of the
  block's command sequences. -/
  hostReset : Option Nat
  /-- MODEL'S OWN (log 8): the index of the next free value. -/
  drawCount : Nat
deriving DecidableEq, Repr, Inhabited

/-- PIN_TRACE in the spec's order, oldest first (R45). -/
def State.pinTrace (s : State) : List Snapshot := s.traceRev.reverse

/-- EVENTS in the spec's order, oldest first (R45). -/
def State.events (s : State) : List Event := s.eventsRev.reverse

/-- Why a step stops the machine. A faulting COMMAND is none of these: it answers a next state with FAULT = 1 (R108). -/
inductive Fault where
  /-- Raised by `step` on a state with BUSY = 1. At the transaction level BUSY is 0 at every command boundary (R22), so
  such a state holds no record of the command it would be in the middle of. Safe: no run reaches one (log 20). -/
  | midCommand
deriving DecidableEq, Repr, Inhabited

/-- Why a step has no meaning. -/
inductive Refusal where
  /-- An instruction without a meaning, by its mnemonic. Raised by no arm of `exec`: every command has its meaning.
  Safe. -/
  | notModelled (mnemonic : String)
  /-- Raised by `step` on a configuration that is not well formed: "a model refuses any other configuration (it has no
  instance)" (43_sequencer.md R101). Safe. -/
  | malformedConfig
deriving DecidableEq, Repr, Inhabited

/-- The pin drivers at the instant of a host reset: every host pin released, every latch 0 (R46, D20, D21). -/
def Pins.atReset : Pins where
  adOut     := 0x00
  adDir     := .idle
  ahOut     := 0x00
  a14Out    := false
  haDir     := .idle
  aleOut    := false
  wrNOut    := false
  rdNOut    := false
  resetNOut := false
  ctrlDir   := .idle
  rstDir    := .idle

/-- The machine at power-on with a given configuration, external memory MEM0, address latch and target state: every
element of the block takes R46's value "at reset", and nothing is recorded yet. The working registers, which R46 leaves
unspecified, are 0 here (DESIGN CHOICE, log 7, unsafe). -/
def State.powerOn (cfg : Config) (mem : Memory) (latch : Addr) (tgt : Target) : State where
  cfg         := cfg
  pins        := Pins.atReset
  phase       := .init
  busy        := false
  fault       := false
  faultCause  := .noFault
  faultCmd    := 0
  bootPc      := 0
  latchedAddr := 0
  addrValid   := false
  writeArmed  := false
  lastRead    := 0
  errTally    := 0
  stErrors    := 0
  stTested    := 0
  stPass      := false
  stDone      := false
  pgWritten   := 0
  pgDone      := false
  vfErrors    := 0
  vfChecked   := 0
  vfPass      := false
  vfDone      := false
  addrCnt     := 0
  patIdx      := 0
  sample      := 0
  extLatch    := latch
  extMem      := mem
  tgt         := tgt
  rdSettled   := false
  traceRev    := []
  eventsRev   := []
  issuer      := []
  hostReset   := none
  drawCount   := 0

/-- The machine right after reset, at the instant R46 calls "at reset": the reset sequence has not run yet. R46 leaves
the external memory (log 4), the address latch (log 5) and the target's state (log 6) open and R8 part of the
configuration (log 3): DESIGN CHOICE, unsafe. -/
def State.reset : State := State.powerOn Config.default [] 0x0000 .held

end Sys2Proof.Machine
end

