-- ==== Sys2Proof/Machine/Memory.lean ====
section
/-! DEFINITION. Machine/Memory.lean: the external memory's contents in one canonical form (10_state.md R42), and the
memory device (20_memory.md R57, 92_eei_decisions.md D44). -/

namespace Sys2Proof.Machine

/-- What an unlisted address reads as. DESIGN CHOICE (log 4, unsafe): the spec leaves MEM0 open (D24). -/
def Memory.unlisted : Byte := 0x00

/-- The byte at key `k`. -/
def Memory.get (k : Nat) : Memory → Byte
  | [] => Memory.unlisted
  | (k', v) :: rest => if k = k' then v else Memory.get k rest

/-- The memory with byte `v` at key `k`; writing what an unlisted address reads as removes the entry. -/
def Memory.put (k : Nat) (v : Byte) : Memory → Memory
  | [] => if v = Memory.unlisted then [] else [(k, v)]
  | (k', v') :: rest =>
    if k < k' then (if v = Memory.unlisted then (k', v') :: rest else (k, v) :: (k', v') :: rest)
    else if k = k' then (if v = Memory.unlisted then rest else (k, v) :: rest)
    else (k', v') :: Memory.put k v rest

/-- `EXT_MEM[a]` (R42). -/
def Memory.read (m : Memory) (a : Addr) : Byte := Memory.get a.toNat m

/-- `mem[a := v]` (R57). -/
def Memory.write (m : Memory) (a : Addr) (v : Byte) : Memory := Memory.put a.toNat v m

/-- The canonical form: every key a 15-bit address above `lo`, keys strictly rising, no entry that an unlisted address
would give. -/
def Memory.wfFrom (lo : Nat) : Memory → Bool
  | [] => true
  | (k, v) :: rest => decide (lo ≤ k) && decide (k < 0x8000) && decide (v ≠ Memory.unlisted) && Memory.wfFrom (k + 1) rest

/-- The memory is in canonical form. -/
def Memory.wf (m : Memory) : Bool := Memory.wfFrom 0 m

/-- The memory that a list of writes, in its order, makes of an empty one. -/
def Memory.ofWrites (cells : List Host.Cell) : Memory :=
  cells.foldl (fun m c => Memory.write m (BitVec.ofNat 15 c.1) c.2) []

/-- The address with A14 ignored: `a mod 2^14` (D44, ALIAS14). -/
def dropA14 (a : Addr) : Addr := (a.extractLsb' 0 14).setWidth 15

/-- `DEV.store` (R57, D44): the memory after byte `v` is written at address `a`. -/
def deviceStore (d : Device) (m : Memory) (a : Addr) (v : Byte) : Memory :=
  match d with
  | .ideal => Memory.write m a v
  | .stuck0 c => Memory.write m a (if a = c then 0x00 else v)
  | .couple w x => if a = w then Memory.write (Memory.write m w v) x 0x00 else Memory.write m a v
  | .alias14 => Memory.write m (dropA14 a) v
  | .other id => Memory.ofWrites (Config.otherStore id m a v)

/-- `DEV.resp` (R57, D44): the byte the device drives when address `a` is read. -/
def deviceResp (d : Device) (m : Memory) (a : Addr) : Byte :=
  match d with
  | .ideal => Memory.read m a
  | .stuck0 c => if a = c then 0x00 else Memory.read m a
  | .couple _ _ => Memory.read m a
  | .alias14 => Memory.read m (dropA14 a)
  | .other id => Config.otherResp id m a

end Sys2Proof.Machine
end

