-- ==== Sys2Proof/Machine/Operands.lean ====
section
/-! DEFINITION. Machine/Operands.lean: how an address and a byte lie on the pins (20_memory.md R49), the addresses and
bytes a procedure computes (R48, R86 to R88), and the read-only stores (10_state.md R34 to R36). -/

namespace Sys2Proof.Machine

/-- AD pin i carries address bit i (R49). -/
def addrLow (a : Addr) : Byte := a.extractLsb' 0 8

/-- AH pin j carries address bit 8+j (R49). -/
def addrMid (a : Addr) : BitVec 6 := a.extractLsb' 8 6

/-- The A14 pin carries address bit 14 (R49). -/
def addrTop (a : Addr) : Bool := a.getLsbD 14

/-- The seven high address pins together, A14 on top (R18, R58). -/
def highPins (a14 : Bool) (ah : BitVec 6) : BitVec 7 := (BitVec.ofBool a14 ++ ah : BitVec (1 + 6))

/-- `{wire_A14, wire_AH[5:0], wire_AD[7:0]}` (R58). -/
def joinAddr (ha : BitVec 7) (ad : Byte) : Addr := (ha ++ ad : BitVec (7 + 8))

/-- `(start + k) mod 2^15`, the address a self-test visits at index k (R48, R86, D14). -/
def rangeAddr (start : Addr) (k : Nat) : Addr := start + BitVec.ofNat 15 k

/-- PATTERN (R34), in its fixed order. -/
def pattern : List Byte := [0x55, 0xAA, 0xFF, 0x00]

/-- IMAGE_LEN as the 16-bit input of R35. -/
def imageLen (c : Config) : BitVec 16 := BitVec.ofNat 16 c.image.length

/-- BOOT_ROM (R36, R100): the four command words. -/
def bootRom (c : Config) : List CmdWord := (bootSequence c).map encode

end Sys2Proof.Machine
end

