-- ==== Sys2Proof/Machine/Wires.lean ====
section
/-! DEFINITION. Machine/Wires.lean: what every wire carries, resolved from its drivers (20_memory.md R55, R56,
60_exceptions.md R117). -/

namespace Sys2Proof.Machine

/-- R55, of one wire: one driver gives its level, none gives `Z`, two or more are in contention. -/
def resolve : List Bool → Line
  | [] => .z
  | [level] => if level then .high else .low
  | _ :: _ :: _ => .contention

/-- The host as a driver of a wire (R55): its latch's level while its role is DRIVING. -/
def hostDrives (dir : Role) (level : Bool) : List Bool :=
  match dir with
  | .idle => []
  | .driving => [level]

/-- The target as a driver of a wire: none while it is held (R116), `drive` while it runs (R117). -/
def targetDrives (drive : Option Bool) (s : State) : List Bool :=
  match s.tgt with
  | .held => []
  | .running => drive.toList

/-- What a wire carries that the host alone can drive (R55). -/
def lineOf (dir : Role) (level : Bool) : Line := resolve (hostDrives dir level)

/-! What the host puts on the control lines (R19, R55). /RESET has no other driver, so its line is its wire. -/

def Pins.aleLine (p : Pins) : Line := lineOf p.ctrlDir p.aleOut
def Pins.wrLine (p : Pins) : Line := lineOf p.ctrlDir p.wrNOut
def Pins.rdLine (p : Pins) : Line := lineOf p.ctrlDir p.rdNOut
def Pins.resetWire (p : Pins) : Line := lineOf p.rstDir p.resetNOut

/-- R117: a running target may drive ALE, /WR and /RD "if `HANDOFF_CTRL = TRISTATE`, or if the platform wires them
so". -/
def targetHasCtrl (c : Config) : Bool :=
  match c.handoffCtrl with
  | .tristate => true
  | .keepDriven => Config.ctrlWired

/-- The target as a driver of a control line, where it can reach it (R117). -/
def targetDrivesCtrl (drive : Option Bool) (s : State) : List Bool :=
  targetDrives (if targetHasCtrl s.cfg then drive else none) s

/-- A control wire the host and the target can drive (R55). -/
def ctrlWire (dir : Role) (level : Bool) (drive : Option Bool) (s : State) : Line :=
  resolve (hostDrives dir level ++ targetDrivesCtrl drive s)

/-! The ALE, /WR and /RD wires under the pins `p`. -/

def aleWire (p : Pins) (s : State) : Line := ctrlWire p.ctrlDir p.aleOut (Config.targetAle s.drawCount) s
def wrWire (p : Pins) (s : State) : Line := ctrlWire p.ctrlDir p.wrNOut (Config.targetWr s.drawCount) s
def rdWire (p : Pins) (s : State) : Line := ctrlWire p.ctrlDir p.rdNOut (Config.targetRd s.drawCount) s

/-- Whether the /RD wire reads 0 (R60, R78, R79): its level, or a free value where it is `Z` or in contention, since
such a wire "reads as a draw (any level) wherever a rule samples it" (R55; log 10). One draw for one step. -/
def rdLow (p : Pins) (s : State) : Bool :=
  match rdWire p s with
  | .low => true
  | .high => false
  | .z => Config.freeRdLow s.drawCount
  | .contention => Config.freeRdLow s.drawCount

/-- The memory device as a driver of AD wire `i` (R55): while the /RD wire reads 0, whoever drives it (R60). -/
def deviceDrives (p : Pins) (s : State) (i : Fin 8) : List Bool :=
  if rdLow p s then [(deviceResp s.cfg.dev s.extMem s.extLatch)[i]] else []

/-- The drivers of AD wire `i` under the pins `p` (R55): the host, the memory device, and the target, which may drive
any of the wires and leave the others (R117, log 15). -/
def adDrivers (p : Pins) (s : State) (i : Fin 8) : List Bool :=
  hostDrives p.adDir p.adOut[i] ++ deviceDrives p s i ++ targetDrives (Config.targetAD s.drawCount i) s

/-- The drivers of high address wire `i` under the pins `p`, AH below 6 and A14 at 6 (R18, R55): the host, and the
target, which may drive any of them (R117, log 15). -/
def haDrivers (p : Pins) (s : State) (i : Fin 7) : List Bool :=
  hostDrives p.haDir (highPins p.a14Out p.ahOut)[i] ++ targetDrives (Config.targetHA s.drawCount i) s

/-- The AD wires under the pins `p` (R55: `wire_AD(i)`). -/
def adWires (p : Pins) (s : State) : Wires 8 := Vector.ofFn fun i => resolve (adDrivers p s i)

/-- The AH wires and, on top, the A14 wire under the pins `p` (R55). -/
def haWires (p : Pins) (s : State) : Wires 7 := Vector.ofFn fun i => resolve (haDrivers p s i)

/-- A group of wires on which nothing is driven. -/
def Wires.z {w : Nat} : Wires w := Vector.ofFn fun _ => .z

/-- A group of wires that one driver alone drives, every one of them. -/
def Wires.level {w : Nat} (v : BitVec w) : Wires w := Vector.ofFn fun i => resolve [v[i]]

/-- The level of a wire, if it has one. -/
def Line.level? : Line → Option Bool
  | .z => none
  | .low => some false
  | .high => some true
  | .contention => none

/-- What a capture takes from a group of wires: from each wire its level, or that wire's bit of a free value where it
floats or is in contention (R55, R58, U14: "any value per bit"). -/
def Wires.taken {w : Nat} (free : BitVec w) (ws : Wires w) : BitVec w :=
  BitVec.ofFnLE fun i => ws[i].level?.getD free[i]

/-- The value on a group of wires, if every one of them has a level (R59). -/
def Wires.value? {w : Nat} (ws : Wires w) : Option (BitVec w) :=
  if ∀ i : Fin w, ws[i].level?.isSome then some (ws.taken 0) else none

end Sys2Proof.Machine
end

