-- ==== Sys2Proof/Machine/Flags.lean ====
section
/-! DEFINITION. Machine/Flags.lean: the result flags of the passes (42_memory_procedures.md R89, R90) and the status
register map (10_state.md R37 to R40). -/

namespace Sys2Proof.Machine

/-- R90: a pass reports "pass" exactly when its tally is 0. -/
def passed (tally : Count) : Bool := decide (tally = 0)

/-- R89: one mismatch per compare whose bytes differ, `+1 mod 2^32`. -/
def tallyAfter (tally : Count) (got expected : Byte) : Count := if got ≠ expected then tally + 1 else tally

/-- R30, R86: `4 * len` as a 32-bit count. -/
def testedCount (len : BitVec 16) : Count := BitVec.ofNat 32 (4 * len.toNat)

/-- A field of `n` bits placed at bit `at'` of a 32-bit status register. -/
def statusField {n : Nat} (v : BitVec n) (at' : Nat) : Count := v.setWidth 32 <<< at'

def statusBit (b : Bool) (at' : Nat) : Count := statusField (BitVec.ofBool b) at'

/-- The code of PHASE (R21). -/
def Phase.code : Phase → BitVec 2
  | .init => 0
  | .hostDriving => 1
  | .busReleased => 2
  | .targetRunning => 3

/-- The code of a fault cause (R106). -/
def FaultCause.code : FaultCause → BitVec 4
  | .noFault => 0
  | .illegalOpcode => 1
  | .reservedBits => 2
  | .afterHandoff => 3
  | .badLength => 4
  | .writeNotArmed => 5
  | .readNoAddress => 6

/-- A role bit reads 1 for DRIVING (R39). -/
def Role.bit : Role → Bool
  | .idle => false
  | .driving => true

/-- CMD_SOURCE as STATUS shows it (R24, R38). -/
def cmdSourceBit : CmdSource → Bool
  | .boot => false
  | .external => true

/-- HANDOFF_CTRL as STATUS shows it (R24, R38). -/
def handoffCtrlBit : HandoffCtrl → Bool
  | .keepDriven => false
  | .tristate => true

/-- Register 0x0 STATUS (R38). -/
def statusWord (s : State) : Count :=
  statusField s.phase.code 0 ||| statusBit s.busy 2 ||| statusBit s.fault 3 ||| statusField s.faultCause.code 4
    ||| statusBit s.addrValid 8 ||| statusBit s.writeArmed 9 ||| statusBit s.stDone 10 ||| statusBit s.stPass 11
    ||| statusBit s.pgDone 12 ||| statusBit s.vfDone 13 ||| statusBit s.vfPass 14
    ||| statusBit (cmdSourceBit s.cfg.cmdSource) 15 ||| statusBit (handoffCtrlBit s.cfg.handoffCtrl) 16

/-- Register 0x1 PINS (R39). -/
def pinsWord (p : Pins) : Count :=
  statusField p.adOut 0 ||| statusBit p.adDir.bit 8 ||| statusField p.ahOut 9 ||| statusBit p.a14Out 15
    ||| statusBit p.haDir.bit 16 ||| statusBit p.aleOut 17 ||| statusBit p.wrNOut 18 ||| statusBit p.rdNOut 19
    ||| statusBit p.resetNOut 20 ||| statusBit p.ctrlDir.bit 21 ||| statusBit p.rstDir.bit 22

/-- The status port (R37 to R40): register `idx`, 0xE and 0xF reserved and reading 0. A read is no step. -/
def statusReg (s : State) (idx : BitVec 4) : Count :=
  match idx.toNat with
  | 0x0 => statusWord s
  | 0x1 => pinsWord s.pins
  | 0x2 => statusField s.latchedAddr 0
  | 0x3 => statusField s.lastRead 0
  | 0x4 => s.errTally
  | 0x5 => s.stErrors
  | 0x6 => s.stTested
  | 0x7 => s.pgWritten
  | 0x8 => s.vfErrors
  | 0x9 => s.vfChecked
  | 0xA => statusField (imageLen s.cfg) 0
  | 0xB => s.faultCmd.extractLsb' 0 32
  | 0xC => s.faultCmd.extractLsb' 32 32
  | 0xD => statusField s.bootPc 0
  | _ => 0

end Sys2Proof.Machine
end

