-- ==== Sys2Proof/Machine/Ops.lean ====
section
/-! DEFINITION. Machine/Ops.lean: the pin micro-operations and the environment's reaction to them
(40_pin_primitives.md R74 to R80), the register writes that stand between them, running a sequence of both, the checks
and the fault entry (60_exceptions.md R107, R108), and running an accepted command (43_sequencer.md R99). -/

namespace Sys2Proof.Machine

/-! The environment's reaction to one step (R74.3), from the control wires before and after it. An edge needs a level
on both sides: a wire that floats or is in contention before or after is no edge (log 10). A running target holds its
lines through the block's step, so a wire whose host side does not move has no edge (log 15). -/

/-- R58: at the falling edge of ALE the latch captures the address wires, each by itself. -/
def latchAfter (before after : Pins) (s : State) : Addr :=
  if before.aleLine = after.aleLine then s.extLatch
  else match aleWire before s, aleWire after s with
    | .high, .low =>
      joinAddr ((haWires after s).taken (Config.freeCaptureHA s.drawCount))
        ((adWires after s).taken (Config.freeCaptureAD s.drawCount))
    | _, _ => s.extLatch

/-- What a commit under the AD wires `ad` leaves (R59): the device stores the byte they carry; where one of them floats
or is in contention the cell becomes a free value (U15, log 9). -/
def committed (ad : Wires 8) (s : State) : Memory :=
  match ad.value? with
  | some v => deviceStore s.cfg.dev s.extMem s.extLatch v
  | none => Memory.write s.extMem s.extLatch (Config.freeCommit s.drawCount)

/-- R59: at the rising edge of /WR the device commits what is on AD. -/
def memAfter (before after : Pins) (s : State) : Memory :=
  if before.wrLine = after.wrLine then s.extMem
  else match wrWire before s, wrWire after s with
    | .low, .high => committed (adWires after s) s
    | _, _ => s.extMem

/-- R43, R116, R117: held while /RESET is low, a free value while it has no level (U18), running from the step that
drives it high (log 12). -/
def targetAfter (before after : Pins) (s : State) : Target :=
  match after.resetWire with
  | .low => .held
  | .z => Config.freeTarget s.drawCount
  | .contention => Config.freeTarget s.drawCount
  | .high => if before.resetWire = .high then s.tgt else .running

/-- R78: every step other than Wait after which /RD reads 1 clears RD_SETTLED. -/
def settledAfter (after : Pins) (s : State) : Bool :=
  s.rdSettled && rdLow after s

/-- R74: one pin micro-operation that leaves the pin drivers at `after`. The wires are resolved first, then the
environment reacts, then one snapshot is recorded (log 11). -/
def pinStep (after : Pins) (s : State) : State :=
  { s with
    pins := after
    extLatch := latchAfter s.pins after s
    extMem := memAfter s.pins after s
    tgt := targetAfter s.pins after s
    rdSettled := settledAfter after s
    traceRev := ⟨after, adWires after s⟩ :: s.traceRev
    drawCount := s.drawCount + 1 }

/-- The operand of SetOut (R75): a group with the value its latch takes. -/
inductive OutValue where
  | ad (v : Byte)
  | ah (v : BitVec 6)
  | a14 (v : Bool)
deriving DecidableEq, Repr

/-- The groups a role governs (R76). -/
inductive DirGroup where
  | ad
  | ha
  | ctrl
  | rst
deriving DecidableEq, Repr

/-- The control lines (R77). -/
inductive CtrlLine where
  | ale
  | wrN
  | rdN
  | resetN
deriving DecidableEq, Repr

/-- R75. -/
def Pins.setOut (p : Pins) : OutValue → Pins
  | .ad v => { p with adOut := v }
  | .ah v => { p with ahOut := v }
  | .a14 v => { p with a14Out := v }

/-- R76. -/
def Pins.setDir (p : Pins) (g : DirGroup) (r : Role) : Pins :=
  match g with
  | .ad => { p with adDir := r }
  | .ha => { p with haDir := r }
  | .ctrl => { p with ctrlDir := r }
  | .rst => { p with rstDir := r }

/-- R77. -/
def Pins.setLine (p : Pins) (l : CtrlLine) (high : Bool) : Pins :=
  match l with
  | .ale => { p with aleOut := high }
  | .wrN => { p with wrNOut := high }
  | .rdN => { p with rdNOut := high }
  | .resetN => { p with resetNOut := high }

/-- `SetOut(g, v)` (R75). -/
def setOut (v : OutValue) (s : State) : State := pinStep (s.pins.setOut v) s

/-- `SetDir(g, role)` (R76). -/
def setDir (g : DirGroup) (r : Role) (s : State) : State := pinStep (s.pins.setDir g r) s

/-- `SetLine(l, level)` (R77). -/
def setLine (l : CtrlLine) (high : Bool) (s : State) : State := pinStep (s.pins.setLine l high) s

/-- `Wait(T_SETTLE)` (R78): with /RD reading 0 the read has settled; otherwise nothing changes but the step itself
(log 13). -/
def waitSettle (s : State) : State :=
  { pinStep s.pins s with
    rdSettled := s.rdSettled || rdLow s.pins s }

/-- R79's conditions for a sample that is the device's byte. -/
def sampleGood (s : State) : Bool :=
  decide (s.pins.adDir = .idle) && rdLow s.pins s && s.rdSettled && s.cfg.settleOk
    && decide (s.tgt = .held)

/-- The byte `Sample(AD)` returns (R79); a free value where the conditions do not hold (U13). -/
def sampledByte (s : State) : Byte :=
  if sampleGood s then deviceResp s.cfg.dev s.extMem s.extLatch else Config.freeSample s.drawCount

/-- `SAMPLE <- Sample(AD)` (R79): a pin step that moves no pin. -/
def samplePins (s : State) : State := { pinStep s.pins s with sample := sampledByte s }

/-- The events a sequence emits (R80, R86 to R88), with what the state adds to them. -/
inductive EmitOp where
  | stResult
  | progressWrite (addr : Addr) (byte : Byte)
  | progressVerify (addr : Addr)
  | vfResult
deriving DecidableEq, Repr

/-- The event that is emitted: results come from the result registers, the verify pass shows the observed byte
(R88, NS17). -/
def EmitOp.event (s : State) : EmitOp → Event
  | .stResult => .stResult s.stPass s.stErrors s.stTested
  | .progressWrite addr byte => .progress .write addr byte
  | .progressVerify addr => .progress .verify addr s.sample
  | .vfResult => .vfResult s.vfPass s.vfErrors s.vfChecked

/-- `Emit(ev)` (R80): no pin step. -/
def emit (e : EmitOp) (s : State) : State := { s with eventsRev := e.event s :: s.eventsRev }

/-- The register writes that stand between the micro-operations of the command rules. -/
inductive RegWrite where
  /-- `LATCHED_ADDR <- a ; ADDR_VALID <- 1 ; WRITE_ARMED <- 1` (R81). -/
  | latched (a : Addr)
  /-- `WRITE_ARMED <- 0` (R82). -/
  | disarmed
  /-- `LAST_READ <- s ; WRITE_ARMED <- 0` (R83). -/
  | readDone
  /-- `ADDR_CNT`, the loop index (R33). -/
  | addrCnt (k : Nat)
  /-- `PAT_IDX`, the index into PATTERN (R33). -/
  | patIdx (j : Nat)
  /-- `ERR_TALLY <- 0` (R86, R88). -/
  | tallyClear
  /-- `if s != p: ERR_TALLY <- ERR_TALLY + 1` (R86, R88, R89). -/
  | tallyCompare (p : Byte)
  /-- The results of a self-test (R86). -/
  | selftestDone (len : BitVec 16)
  /-- The results of a write pass (R87). -/
  | programDone
  /-- The results of a verify pass (R88). -/
  | verifyDone
  /-- `PHASE <- ph` (R102, R121). -/
  | phase (ph : Phase)
deriving DecidableEq, Repr

def RegWrite.apply (r : RegWrite) (s : State) : State :=
  match r with
  | .latched a => { s with latchedAddr := a, addrValid := true, writeArmed := true }
  | .disarmed => { s with writeArmed := false }
  | .readDone => { s with lastRead := s.sample, writeArmed := false }
  | .addrCnt k => { s with addrCnt := BitVec.ofNat 16 k }
  | .patIdx j => { s with patIdx := BitVec.ofNat 2 j }
  | .tallyClear => { s with errTally := 0 }
  | .tallyCompare p => { s with errTally := tallyAfter s.errTally s.sample p }
  | .selftestDone len =>
    { s with
      stErrors := s.errTally
      stTested := testedCount len
      stPass := passed s.errTally
      stDone := true }
  | .programDone => { s with pgWritten := (imageLen s.cfg).setWidth 32, pgDone := true }
  | .verifyDone =>
    { s with
      vfErrors := s.errTally
      vfChecked := (imageLen s.cfg).setWidth 32
      vfPass := passed s.errTally
      vfDone := true }
  | .phase ph => { s with phase := ph }

/-- One entry of a command's sequence: a micro-operation (R11), or a register write. -/
inductive Act where
  | setOut (v : OutValue)
  | setDir (g : DirGroup) (r : Role)
  | setLine (l : CtrlLine) (high : Bool)
  | wait
  | sample
  | emit (e : EmitOp)
  | reg (r : RegWrite)
deriving DecidableEq, Repr

/-- Whether an entry is a pin step, one that records a snapshot (R74, R80, R136). -/
def Act.isPinStep : Act → Bool
  | .setOut _ => true
  | .setDir _ _ => true
  | .setLine _ _ => true
  | .wait => true
  | .sample => true
  | .emit _ => false
  | .reg _ => false

/-- What one entry does. -/
def doAct (a : Act) (s : State) : State :=
  match a with
  | .setOut v => setOut v s
  | .setDir g r => setDir g r s
  | .setLine l high => setLine l high s
  | .wait => waitSettle s
  | .sample => samplePins s
  | .emit e => emit e s
  | .reg r => r.apply s

/-- A sequence of entries, one after the other: "the effect of a micro-operation is complete before the next begins"
(R74, R61). -/
def runActs : List Act → State → State
  | [], s => s
  | a :: rest, s => runActs rest (doAct a s)

/-- How many pin steps a sequence has (R136). -/
def pinSteps (acts : List Act) : Nat := acts.countP Act.isPinStep

/-! Taking a command. -/

/-- The fault cause of a word that is no command (R70). -/
def causeOf : DecodeError → FaultCause
  | .illegalOpcode => .illegalOpcode
  | .reservedBits => .reservedBits

/-- The checks of R107 on a decoded command, in its priority order. -/
def check (i : Instr) (s : State) : FaultCause :=
  if s.phase ≠ .hostDriving then .afterHandoff
  else match i with
    | .latch _ => .noFault
    | .write _ => if s.writeArmed then .noFault else .writeNotArmed
    | .read => if s.addrValid then .noFault else .readNoAddress
    | .selftest _ len _ => if 0x8000 < len.toNat then .badLength else .noFault
    | .program => .noFault
    | .verify => .noFault
    | .handoff => .noFault

/-- R108: fault entry. Nothing else changes. -/
def faultEntry (f : FaultCause) (w : CmdWord) (s : State) : State :=
  { s with fault := true, faultCause := f, faultCmd := w }

/-- R33, U26: at a command boundary the working registers hold free values (log 7). -/
def releaseWork (s : State) : State :=
  { s with
    addrCnt := Config.freeAddrCnt s.drawCount
    patIdx := Config.freePatIdx s.drawCount
    sample := Config.freeSampleReg s.drawCount
    drawCount := s.drawCount + 1 }

/-- R25, R99: BOOT_PC moves on when a command of the boot sequence completes. -/
def advanceBoot (s : State) : State :=
  match s.cfg.cmdSource with
  | .boot => { s with bootPc := s.bootPc + 1 }
  | .external => s

/-- BUSY (R22, R99). -/
def setBusy (b : Bool) (s : State) : State := { s with busy := b }

/-- R99, once the word is decoded: the checks, then either the fault entry, which runs no micro-operation, or the
command's whole sequence. FAULT_CMD takes the command's own word, `encode i`, the only word that decodes to `i`
(log 22). -/
def runCommand (i : Instr) (acts : List Act) (s : State) : State :=
  if check i s = .noFault then
    setBusy false (advanceBoot (releaseWork (runActs acts (setBusy true s))))
  else setBusy false (faultEntry (check i s) (encode i) (setBusy true s))

end Sys2Proof.Machine
end

