-- ==== Sys2Proof/Machine/BusDriver.lean ====
section
/-! DEFINITION. Machine/BusDriver.lean: the bus driver's primitives LATCH, WRITE, READ (41_bus_driver.md R81 to R84). -/

namespace Sys2Proof.Machine

/-- R81: `LATCH(a)`, eight pin steps. -/
def latchActs (a : Addr) : List Act :=
  [.setOut (.ad (addrLow a)),
   .setOut (.ah (addrMid a)),
   .setOut (.a14 (addrTop a)),
   .setDir .ha .driving,
   .setDir .ad .driving,
   .setLine .ale true,
   .setLine .ale false,
   .setDir .ad .idle,
   .reg (.latched a)]

/-- R82: `WRITE(v)`, five pin steps. -/
def writeActs (v : Byte) : List Act :=
  [.setOut (.ad v),
   .setDir .ad .driving,
   .setLine .wrN false,
   .setLine .wrN true,
   .setDir .ad .idle,
   .reg .disarmed]

/-- R83: `READ()`, four pin steps. The sampled byte stays in SAMPLE for the procedure that called it (R84). -/
def readActs : List Act :=
  [.setLine .rdN false,
   .wait,
   .sample,
   .setLine .rdN true,
   .reg .readDone]

/-- LATCH (R81). -/
def execLatch (addr : Addr) (s : State) : Host.Outcome State Fault Refusal :=
  .next (runCommand (.latch addr) (latchActs addr) s)

/-- WRITE (R82). -/
def execWrite (data : Byte) (s : State) : Host.Outcome State Fault Refusal :=
  .next (runCommand (.write data) (writeActs data) s)

/-- READ (R83). -/
def execRead (s : State) : Host.Outcome State Fault Refusal :=
  .next (runCommand .read readActs s)

end Sys2Proof.Machine
end

