-- ==== Sys2Proof/Machine/Procedures.lean ====
section
/-! DEFINITION. Machine/Procedures.lean: the memory procedures SELFTEST, PROGRAM, VERIFY (42_memory_procedures.md R86 to
R91). Their sequences hold the primitives' own (R84). -/

namespace Sys2Proof.Machine

/-- Strategy (a), one address and one pattern: `LATCH(a) ; WRITE(p) ; s <- READ()`, compare (R86). -/
def testCellActs (a : Addr) (jp : Nat × Byte) : List Act :=
  .reg (.patIdx jp.1) :: (latchActs a ++ writeActs jp.2 ++ readActs ++ [.reg (.tallyCompare jp.2)])

/-- The patterns with their indices j (R34, R86). -/
def indexedPatterns : List (Nat × Byte) := (List.range pattern.length).zip pattern

/-- Strategy (a) at index k of the range (R86). -/
def testAddrActs (start : Addr) (k : Nat) : List Act :=
  .reg (.addrCnt k) :: indexedPatterns.flatMap (testCellActs (rangeAddr start k))

/-- Strategy (b), the write of pattern p at index k (R86). -/
def fillCellActs (start : Addr) (p : Byte) (k : Nat) : List Act :=
  .reg (.addrCnt k) :: (latchActs (rangeAddr start k) ++ writeActs p)

/-- Strategy (b), the read-back of pattern p at index k (R86). -/
def readBackActs (start : Addr) (p : Byte) (k : Nat) : List Act :=
  .reg (.addrCnt k) :: (latchActs (rangeAddr start k) ++ readActs ++ [.reg (.tallyCompare p)])

/-- Strategy (b), one pattern: a full write pass, then a full read-back pass (R86). -/
def testPatternActs (start : Addr) (len : Nat) (jp : Nat × Byte) : List Act :=
  .reg (.patIdx jp.1) ::
    ((List.range len).flatMap (fillCellActs start jp.2) ++ (List.range len).flatMap (readBackActs start jp.2))

/-- The bus transactions of a self-test under each strategy (R86). -/
def sweepActs (start : Addr) (len : Nat) : Strategy → List Act
  | .perAddress => (List.range len).flatMap (testAddrActs start)
  | .perPattern => indexedPatterns.flatMap (testPatternActs start len)

/-- R86: `SELFTEST(start, len, strat)`. -/
def selftestActs (start : Addr) (len : BitVec 16) (strat : Strategy) : List Act :=
  .reg .tallyClear :: (sweepActs start len.toNat strat ++ [.reg (.selftestDone len), .emit .stResult])

/-- The image's bytes with their indices i (R87, R88). -/
def indexedImage (image : List Byte) : List (Nat × Byte) := (List.range image.length).zip image

/-- The write pass at index i: `LATCH(i) ; WRITE(IMAGE[i])` (R87). The address is i mod 2^15 (R48). -/
def programByteActs (ib : Nat × Byte) : List Act :=
  .reg (.addrCnt ib.1) ::
    (latchActs (BitVec.ofNat 15 ib.1) ++ writeActs ib.2 ++ [.emit (.progressWrite (BitVec.ofNat 15 ib.1) ib.2)])

/-- R87: `PROGRAM()`. -/
def programActs (image : List Byte) : List Act :=
  (indexedImage image).flatMap programByteActs ++ [.reg .programDone]

/-- The verify pass at index i: `LATCH(i) ; s <- READ()`, compare, never stopping early (R88). -/
def verifyByteActs (ib : Nat × Byte) : List Act :=
  .reg (.addrCnt ib.1) ::
    (latchActs (BitVec.ofNat 15 ib.1) ++ readActs
      ++ [.reg (.tallyCompare ib.2), .emit (.progressVerify (BitVec.ofNat 15 ib.1))])

/-- R88: `VERIFY()`. -/
def verifyActs (image : List Byte) : List Act :=
  .reg .tallyClear :: ((indexedImage image).flatMap verifyByteActs ++ [.reg .verifyDone, .emit .vfResult])

/-- SELFTEST (R86). -/
def execSelftest (start : Addr) (len : BitVec 16) (strat : Strategy) (s : State) : Host.Outcome State Fault Refusal :=
  .next (runCommand (.selftest start len strat) (selftestActs start len strat) s)

/-- PROGRAM (R87). -/
def execProgram (s : State) : Host.Outcome State Fault Refusal :=
  .next (runCommand .program (programActs s.cfg.image) s)

/-- VERIFY (R88). -/
def execVerify (s : State) : Host.Outcome State Fault Refusal :=
  .next (runCommand .verify (verifyActs s.cfg.image) s)

end Sys2Proof.Machine
end

