-- ==== Sys2Proof/Machine/Sequencer.lean ====
section
/-! DEFINITION. Machine/Sequencer.lean: HANDOFF (43_sequencer.md R102), the reset sequence and the host reset
(70_reset_and_hazards.md R121, R122), the running target (60_exceptions.md R117), and where the next command comes from
(43_sequencer.md R98, R100). -/

namespace Sys2Proof.Machine

/-- R102: `HANDOFF()`, two pin steps, three with TRISTATE. -/
def handoffActs (ctrl : HandoffCtrl) : List Act :=
  [.setDir .ha .idle, .reg (.phase .busReleased)]
    ++ (match ctrl with | .tristate => [.setDir .ctrl .idle] | .keepDriven => [])
    ++ [.setLine .resetN true, .reg (.phase .targetRunning)]

/-- HANDOFF (R102). -/
def execHandoff (s : State) : Host.Outcome State Fault Refusal :=
  .next (runCommand .handoff (handoffActs s.cfg.handoffCtrl) s)

/-- R121: `INIT()`, the reset sequence, eight pin steps. -/
def initActs : List Act :=
  [.setLine .resetN false,
   .setDir .rst .driving,
   .setLine .ale false,
   .setLine .wrN true,
   .setLine .rdN true,
   .setDir .ctrl .driving,
   .setDir .ad .idle,
   .setDir .ha .idle,
   .reg (.phase .hostDriving)]

/-- The sequence an accepted command runs (R99). -/
def commandActs (c : Config) : Instr → List Act
  | .latch addr => latchActs addr
  | .write data => writeActs data
  | .read => readActs
  | .selftest start len strat => selftestActs start len strat
  | .program => programActs c.image
  | .verify => verifyActs c.image
  | .handoff => handoffActs c.handoffCtrl

/-- The external memory an uncontrolled end of the strobes leaves (R122): with /WR low the latched cell is a free value
(U16). -/
def memAtReset (s : State) : Memory :=
  if wrWire s.pins s = .low then Memory.write s.extMem s.extLatch (Config.freeResetCell s.drawCount) else s.extMem

/-- The address latch an uncontrolled end of the strobes leaves (R122): with ALE high it is a free value (U17). -/
def latchAtReset (s : State) : Addr :=
  if aleWire s.pins s = .high then Config.freeResetLatch s.drawCount else s.extLatch

/-- A host reset is taken (R122, R46): every element of the block takes its value "at reset", the environment and the
recordings stay but for the two mid-strobe exceptions, and the reset sequence is what the next turn runs (log 17). The
released /RESET wire floats, so the target's state is a free value from here on (R116, R123, U18). -/
def takeHostReset (s : State) : State :=
  { State.powerOn s.cfg (memAtReset s) (latchAtReset s) (Config.freeTarget s.drawCount) with
    addrCnt := Config.freeAddrCnt s.drawCount
    patIdx := Config.freePatIdx s.drawCount
    sample := Config.freeSampleReg s.drawCount
    traceRev := s.traceRev
    eventsRev := s.eventsRev
    issuer := s.issuer
    hostReset := none
    drawCount := s.drawCount + 1 }

/-- R117, U19: a running target's turn may leave anything in EXT_MEM and EXT_LATCH (log 14). Between the instant of a
reset and the reset sequence it takes none: "what the target does in that interval is not modelled" (R123, log 17). -/
def targetTurn (s : State) : State :=
  if s.phase = .init then s
  else match s.tgt with
    | .running =>
      { s with
        extMem := Memory.ofWrites (Config.targetMem s.drawCount)
        extLatch := Config.targetLatch s.drawCount
        drawCount := s.drawCount + 1 }
    | .held => s

/-- R98: the word the block would take now, if it accepts a command at all. -/
def fetchWord (s : State) : Option CmdWord :=
  if s.phase ≠ .init ∧ s.busy = false ∧ s.fault = false then
    match s.cfg.cmdSource with
    | .boot => if s.bootPc.toNat < 4 then (bootRom s.cfg)[s.bootPc.toNat]? else none
    | .external => s.issuer.head?
  else none

/-- The external issuer's word has been taken (R98); the boot sequence moves on only when its command completes. -/
def acceptWord (s : State) : State :=
  match s.cfg.cmdSource with
  | .boot => s
  | .external => { s with issuer := s.issuer.tail }

/-- Where a pending host reset cuts a sequence of `n` entries short (R122): after the first `k` of them, `k < n`. -/
def cutAt (n : Nat) (s : State) : Option Nat :=
  match s.hostReset with
  | some k => if k < n then some k else none
  | none => none

/-- A pending host reset comes nearer by the `n` entries that have run. -/
def countDown (n : Nat) (s : State) : State := { s with hostReset := s.hostReset.map (· - n) }

/-- A word that is no command: it is accepted and takes the fault entry (R99, R108). -/
def faultWord (e : DecodeError) (w : CmdWord) (s : State) : State :=
  setBusy false (faultEntry (causeOf e) w (setBusy true s))

/-- The whole reset sequence (R121). -/
def runInit (s : State) : State := runActs initActs s

end Sys2Proof.Machine
end

