-- ==== Sys2Proof/Machine/Dispatch.lean ====
section
/-! DEFINITION. Machine/Dispatch.lean: one arm per command. -/

namespace Sys2Proof.Machine

def exec (i : Instr) (s : State) : Host.Outcome State Fault Refusal :=
  match i with
  | .latch addr => Sys2Proof.Machine.execLatch addr s
  | .write data => Sys2Proof.Machine.execWrite data s
  | .read => Sys2Proof.Machine.execRead s
  | .selftest start len strat => Sys2Proof.Machine.execSelftest start len strat s
  | .program => Sys2Proof.Machine.execProgram s
  | .verify => Sys2Proof.Machine.execVerify s
  | .handoff => Sys2Proof.Machine.execHandoff s

end Sys2Proof.Machine
end

