-- ==== Sys2Proof/Machine/Turn.lean ====
section
/-! DEFINITION. Machine/Turn.lean: one turn of the block at a command boundary (43_sequencer.md R98, R99), with a host
reset taken where it falls (70_reset_and_hazards.md R122), and how a word is placed where the block fetches. -/

namespace Sys2Proof.Machine

/-- What the block does in a turn. -/
inductive Duty where
  /-- A host reset is due at this very boundary. -/
  | hostReset
  /-- The reset sequence (R121). -/
  | initSequence
  /-- An accepted word (R98). -/
  | command (w : CmdWord)
  /-- No command to take: the block is faulted (R109), handed off (R103, R120), or its issuer has none (R105). -/
  | idle
deriving DecidableEq, Repr

/-- R98, R121, R122. A pending host reset finds an idle block at once: no micro-operation would bring it nearer
(log 16). -/
def duty (s : State) : Duty :=
  if s.hostReset = some 0 then .hostReset
  else if s.phase = .init then .initSequence
  else match fetchWord s with
    | some w => .command w
    | none => if s.hostReset = none then .idle else .hostReset

/-- The reset sequence, cut short by a host reset that falls inside it (R122). -/
def initTurn (s : State) : State :=
  match cutAt initActs.length s with
  | some k => takeHostReset (runActs (initActs.take k) s)
  | none => countDown initActs.length (runInit s)

/-- The entries an accepted command will run: none if a check turns it away (R107, R108). -/
def plannedActs (i : Instr) (s : State) : List Act :=
  if check i s = .noFault then commandActs s.cfg i else []

/-- A decoded command: the whole of it (`exec`), unless a host reset falls inside it and abandons it (R122). -/
def commandTurn (i : Instr) (s : State) : Host.Outcome State Fault Refusal :=
  match cutAt (plannedActs i s).length s with
  | some k => .next (takeHostReset (runActs ((plannedActs i s).take k) (setBusy true s)))
  | none => exec i (countDown (plannedActs i s).length s)

/-- R99: a word is decoded and run. -/
def wordTurn (w : CmdWord) (s : State) : Host.Outcome State Fault Refusal :=
  match decode w with
  | .ok i => commandTurn i s
  | .error e => .next (faultWord e w s)

/-- One turn of the block. An idle block keeps every element (R103, R109, R120). -/
def blockTurn (s : State) : Host.Outcome State Fault Refusal :=
  match duty s with
  | .hostReset => .next (takeHostReset s)
  | .initSequence => .next (initTurn s)
  | .command w => wordTurn w (acceptWord s)
  | .idle => .next s

/-- One step: the configuration must be well formed (R101) and the block at a command boundary (R22); a running target
takes its turn (R117), then the block takes its own. -/
def turn (s : State) : Host.Outcome State Fault Refusal :=
  if s.cfg.wf then
    if s.busy then .fault .midCommand else blockTurn (targetTurn s)
  else .refused .malformedConfig

/-- The state with the word `w` where the next turn takes it (log 2): presented first by the external issuer, to a
block that is past its reset sequence (which is run here if it has not been), not busy, not faulted, and with no host
reset on its way. -/
def placeWord (w : CmdWord) (s : State) : State :=
  let ready := if s.phase = .init then runInit s else s
  { ready with
    cfg := { ready.cfg with cmdSource := .external }
    issuer := w :: ready.issuer
    busy := false
    fault := false
    hostReset := none }

end Sys2Proof.Machine
end

