-- ==== Sys2Proof/Machine/Step.lean ====
section
/-! DEFINITION. Machine/Step.lean: the step, and where a word is placed for it to fetch. -/

namespace Sys2Proof.Machine

/-- One step of the machine (43_sequencer.md R99). -/
def step (s : State) : Host.Outcome State Fault Refusal := turn s

/-- `s` with a table row's word where the next step takes its command from (log 2). -/
def State.withFetchWord (s : State) (nbits w : Nat) : State := placeWord (wordOfTable nbits w) s

end Sys2Proof.Machine
end

