-- ==== Sys2Proof/Machine/Assembler.lean ====
section
/-! DEFINITION. Machine/Assembler.lean: the assembler's text (30_encoding.md R72, R73), one command a line, as lists of
characters. What the spec leaves open about spacing and letters is in log 30. -/

namespace Sys2Proof.Machine

/-- A line of assembler text: one without a command (only blanks, only a comment, or nothing at all), a line, or no line
of R72 or R73. That a line without a command is taken, as no words, is the model's DESIGN CHOICE where it has no comment
either (log 30): R72 has one command a line and is silent on it. -/
inductive ParsedLine where
  | blank
  | line (l : AsmLine)
  | malformed
deriving DecidableEq, Repr

def isBlankChar (c : Char) : Bool := c = ' ' || c = '\t'

/-- The text without the blanks around it. -/
def trimBlanks (cs : List Char) : List Char :=
  ((cs.dropWhile isBlankChar).reverse.dropWhile isBlankChar).reverse

/-- The text before a comment (R72: `;` starts one). -/
def beforeComment (cs : List Char) : List Char := cs.takeWhile (fun c => decide (c ≠ ';'))

/-- The text cut at its commas. -/
def splitCommas : List Char → List (List Char)
  | [] => [[]]
  | c :: rest =>
    match splitCommas rest with
    | [] => [[c]]
    | part :: parts => if c = ',' then [] :: part :: parts else (c :: part) :: parts

/-- The value of a digit in a base. -/
def digitValue (base : Nat) (c : Char) : Option Nat :=
  let n := c.toNat
  let v := if 48 ≤ n ∧ n ≤ 57 then n - 48
    else if 97 ≤ n ∧ n ≤ 102 then n - 87
    else if 65 ≤ n ∧ n ≤ 70 then n - 55
    else base
  if v < base then some v else none

/-- The number whose digits follow the value `acc`. -/
def readDigits (base : Nat) : List Char → Nat → Option Nat
  | [], acc => some acc
  | c :: rest, acc =>
    match digitValue base c with
    | some v => readDigits base rest (acc * base + v)
    | none => none

/-- R72: numbers in decimal or `0x` hex. -/
def readNumber (cs : List Char) : Option Nat :=
  match cs with
  | [] => none
  | '0' :: 'x' :: [] => none
  | '0' :: 'x' :: digits => readDigits 16 digits 0
  | digits => readDigits 10 digits 0

/-- R72: `ADDR | PATTERN (or 0 | 1)`. -/
def readStrategy (cs : List Char) : Option Strategy :=
  if cs = "ADDR".toList then some .perAddress
  else if cs = "PATTERN".toList then some .perPattern
  else match readNumber cs with
    | some 0 => some .perAddress
    | some 1 => some .perPattern
    | _ => none

def asmNoOperand (l : AsmLine) : List (List Char) → Option AsmLine
  | [] => some l
  | _ => none

def asmOneNumber (mk : Nat → AsmLine) : List (List Char) → Option AsmLine
  | [x] => (readNumber x).map mk
  | _ => none

def asmTwoNumbers (mk : Nat → Nat → AsmLine) : List (List Char) → Option AsmLine
  | [x, y] => (readNumber x).bind fun a => (readNumber y).map (mk a)
  | _ => none

def asmSelftest : List (List Char) → Option AsmLine
  | [x, y, z] => (readNumber x).bind fun start => (readNumber y).bind fun len => (readStrategy z).map (.selftest start len)
  | _ => none

/-- The line of a mnemonic with its operands (R72, R73). -/
def asmOf (mnemonic : List Char) (args : List (List Char)) : Option AsmLine :=
  if mnemonic = "LATCH".toList then asmOneNumber .latch args
  else if mnemonic = "WRITE".toList then asmOneNumber .write args
  else if mnemonic = "READ".toList then asmNoOperand .read args
  else if mnemonic = "SELFTEST".toList then asmSelftest args
  else if mnemonic = "PROGRAM".toList then asmNoOperand .program args
  else if mnemonic = "VERIFY".toList then asmNoOperand .verify args
  else if mnemonic = "HANDOFF".toList then asmNoOperand .handoff args
  else if mnemonic = "WRAT".toList then asmTwoNumbers .wrat args
  else if mnemonic = "RDAT".toList then asmOneNumber .rdat args
  else if mnemonic = "TESTCELL".toList then asmTwoNumbers .testcell args
  else if mnemonic = "BOOT".toList then asmNoOperand .boot args
  else none

/-- The operands after a mnemonic: none, or the parts between the commas. -/
def operandsOf (cs : List Char) : List (List Char) :=
  if cs = [] then [] else (splitCommas cs).map trimBlanks

/-- One line of text (R72). A line with nothing before its comment, or with nothing at all, is blank (log 30). -/
def parseLine (cs : List Char) : ParsedLine :=
  let body := trimBlanks (beforeComment cs)
  let mnemonic := body.takeWhile (fun c => !isBlankChar c)
  if body = [] then .blank
  else match asmOf mnemonic (operandsOf (trimBlanks (body.dropWhile (fun c => !isBlankChar c)))) with
    | some l => .line l
    | none => .malformed

/-- The words of one line of text, no words for a blank line (log 30); none where the assembler refuses it. -/
def assembleLine (c : Config) (cs : List Char) : Option (List CmdWord) :=
  match parseLine cs with
  | .blank => some []
  | .line l => l.assemble c
  | .malformed => none

/-- The words of a source text, line by line; none where the assembler refuses a line. -/
def assembleText (c : Config) : List (List Char) → Option (List CmdWord)
  | [] => some []
  | line :: rest =>
    match assembleLine c line, assembleText c rest with
    | some ws, some ws' => some (ws ++ ws')
    | _, _ => none

end Sys2Proof.Machine
end

