-- ==== Sys2Proof/Safety.lean ====
section
/-! DEFINITION. Safety.lean: the terms claims are stated in: the bus hazards of a snapshot (70_reset_and_hazards.md R125
to R134), the shape of a command boundary (10_state.md R20), the ends of a run (43_sequencer.md R105), what is observed
of a state, and the memory procedures as plain functions of the memory device. -/

namespace Sys2Proof.Machine

/-! Hazards. -/

/-- How many strobes the host has active: ALE high, /WR low, /RD low (R130). -/
def Pins.activeStrobes (p : Pins) : Nat :=
  (if p.aleLine = .high then 1 else 0) + (if p.wrLine = .low then 1 else 0) + (if p.rdLine = .low then 1 else 0)

/-- The pins of the reset sequence's first two steps (R121): until the second has driven /RESET low, the target may run
(R116, R123). -/
def Pins.Starting (p : Pins) : Prop := p = Pins.atReset ∨ p = { Pins.atReset with rstDir := .driving }

/-- The hazards one snapshot must not show. -/
structure Snapshot.Safe (n : Snapshot) : Prop where
  /-- R130: "no snapshot has more than one of ALE = 1, /WR = 0, /RD = 0". -/
  oneStrobe : n.pins.activeStrobes ≤ 1
  /-- R129: "whenever the /RD wire is 0, `AD_DIR = IDLE`". -/
  readUndriven : n.pins.rdLine = .low → n.pins.adDir = .idle
  /-- R133: no contention on the AD wires, once the reset sequence holds the target ("nor the interval before the reset
  sequence"). -/
  noContention : ¬ n.pins.Starting → Line.contention ∉ n.ad
  /-- R104, R132: while /RESET is high the host drives neither AD nor the high address pins. -/
  releasedFirst : n.pins.resetWire = .high → n.pins.adDir = .idle ∧ n.pins.haDir = .idle
  /-- R131: every strobe lies where /RESET is low. -/
  strobeHeld : 0 < n.pins.activeStrobes → n.pins.resetWire = .low

/-- R56: some AD, AH or A14 wire has two or more drivers. -/
def State.Contended (s : State) : Prop := Line.contention ∈ adWires s.pins s ∨ Line.contention ∈ haWires s.pins s

/-! Command boundaries. -/

/-- The bus at rest while the host holds the target: AD released, the control lines driven at their idle levels,
/RESET driven low, no read under way (R19, R20, R46 "after INIT"). -/
structure BusRest (s : State) : Prop where
  adIdle     : s.pins.adDir = .idle
  aleLow     : s.pins.aleOut = false
  wrHigh     : s.pins.wrNOut = true
  rdHigh     : s.pins.rdNOut = true
  resetLow   : s.pins.resetNOut = false
  ctrlDriven : s.pins.ctrlDir = .driving
  rstDriven  : s.pins.rstDir = .driving
  held       : s.tgt = .held
  unsettled  : s.rdSettled = false

/-- The block's record of the address against the environment's (R20, R26, R27, R127): HA is driven exactly once an
address has been latched, the latch then holds that address and the high pins present its high bits. -/
structure AddrCoherent (s : State) : Prop where
  haDriven  : s.pins.haDir = .driving ↔ s.addrValid = true
  latchIs   : s.addrValid = true → s.extLatch = s.latchedAddr
  highPins  : s.addrValid = true → s.pins.ahOut = addrMid s.latchedAddr ∧ s.pins.a14Out = addrTop s.latchedAddr
  armedIs   : s.writeArmed = true → s.addrValid = true

/-- A command boundary at which the host owns the bus. -/
structure HostReady (s : State) : Prop where
  phase    : s.phase = .hostDriving
  rest     : BusRest s
  coherent : AddrCoherent s

/-- What each phase leaves at a command boundary (R20, R21, R46, R102). -/
def PhaseShape (s : State) : Prop :=
  match s.phase with
  | .init => s.pins = Pins.atReset ∧ s.addrValid = false ∧ s.writeArmed = false ∧ s.fault = false ∧ s.bootPc = 0
      ∧ s.rdSettled = false
  | .hostDriving => BusRest s ∧ AddrCoherent s
  | .busReleased => False
  | .targetRunning => s.pins.adDir = .idle ∧ s.pins.haDir = .idle ∧ s.pins.rstDir = .driving
      ∧ s.pins.resetNOut = true ∧ s.pins.aleOut = false ∧ s.pins.wrNOut = true ∧ s.pins.rdNOut = true ∧ s.tgt = .running

/-- The invariant of command boundaries. -/
structure Boundary (s : State) : Prop where
  /-- R22. -/
  notBusy   : s.busy = false
  /-- The memory is in its canonical form. -/
  memWf     : Memory.wf s.extMem = true
  /-- R20, R21. -/
  shape     : PhaseShape s
  /-- R129 to R133 over the whole of PIN_TRACE. -/
  traceSafe : ∀ n ∈ s.traceRev, n.Safe
  /-- R25: BOOT_PC is 0 to 4, and 0 when the commands come from outside. -/
  bootRange : s.bootPc.toNat ≤ 4 ∧ (s.cfg.cmdSource = .external → s.bootPc = 0)
  /-- R23, R106: a cause and a word are recorded exactly with a fault. -/
  faultRec  : (s.fault = true ↔ s.faultCause ≠ .noFault) ∧ (s.fault = false → s.faultCmd = 0)

/-- R101, for a block that runs its boot sequence: no fault, and BOOT_PC is 4 exactly once the target runs. -/
structure BootSound (s : State) : Prop where
  boundary : Boundary s
  source   : s.cfg.cmdSource = .boot
  noFault  : s.fault = false
  pcPhase  : s.phase = .targetRunning ↔ s.bootPc = 4

/-! Ends of a run (R105). -/

/-- No command is left: the boot sequence is over, or the issuer's list is exhausted. -/
def State.NoneLeft (s : State) : Prop :=
  match s.cfg.cmdSource with
  | .boot => s.bootPc = 4
  | .external => s.issuer = []

/-- R105: the run ends well. -/
def State.Final (s : State) : Prop := s.phase = .targetRunning ∧ s.busy = false ∧ s.fault = false ∧ s.NoneLeft

/-- R105: "a state at a command boundary with `PHASE = HOST_DRIVING` and no command left is stuck", faulted or not. -/
def State.Stuck (s : State) : Prop := s.phase = .hostDriving ∧ s.busy = false ∧ s.NoneLeft

/-! Observation. -/

/-- The state without the working registers, which are unobservable at a command boundary (R33), and without the index
of free values, which is the model's own: what a statement about a command compares. -/
def State.observed (s : State) : State := { s with addrCnt := 0, patIdx := 0, sample := 0, drawCount := 0 }

/-- `t` is `u` after a host reset (R122, R46): every element of the block at its value "at reset", the recordings and the
environment kept but for the two mid-strobe exceptions. -/
structure ResetOver (u t : State) : Prop where
  block  : t.observed = { (State.powerOn u.cfg t.extMem t.extLatch t.tgt).observed with
    traceRev := u.traceRev, eventsRev := u.eventsRev, issuer := u.issuer }
  mem    : wrWire u.pins u ≠ .low → t.extMem = u.extMem
  cell   : ∃ b, t.extMem = u.extMem ∨ t.extMem = Memory.write u.extMem u.extLatch b
  latch  : aleWire u.pins u ≠ .high → t.extLatch = u.extLatch

/-- What of a state the bus primitives inside a procedure leave alone (R81 to R84): everything but the address and data
latches, HA's role, the bus-protocol registers, the latch and memory, the recordings, BUSY and BOOT_PC. -/
def State.outsideBus (s : State) : State :=
  { s.observed with
    pins := { s.pins with adOut := 0, ahOut := 0, a14Out := false, haDir := .idle }
    busy := false
    bootPc := 0
    latchedAddr := 0
    addrValid := false
    writeArmed := false
    lastRead := 0
    extLatch := 0
    extMem := []
    traceRev := []
    eventsRev := [] }

/-- What a procedure that visited addresses leaves on the bus: the last address it latched, the last byte it put on the
AD latch, and a last primitive that was no LATCH (R26, R27, R81 to R84). -/
structure LastVisited (a : Addr) (ad : Byte) (s t : State) : Prop where
  latched  : t.latchedAddr = a
  valid    : t.addrValid = true
  disarmed : t.writeArmed = false
  extLatch : t.extLatch = a
  pins     : t.pins =
    { s.pins with adOut := ad, ahOut := a.extractLsb' 8 6, a14Out := a.getLsbD 14, haDir := .driving }

/-- What a procedure that visited no address leaves on the bus: all of it as it was (R84, "no bus transaction"). -/
structure NoneVisited (s t : State) : Prop where
  latched  : t.latchedAddr = s.latchedAddr
  valid    : t.addrValid = s.addrValid
  armed    : t.writeArmed = s.writeArmed
  lastRead : t.lastRead = s.lastRead
  extLatch : t.extLatch = s.extLatch
  pins     : t.pins = s.pins
  trace    : t.traceRev = s.traceRev

/-- The state without the results that R91 says gate nothing. -/
def State.withoutVerdicts (s : State) : State :=
  { s with stPass := false, stErrors := 0, vfPass := false, vfErrors := 0 }

/-- BOOT_PC after a command has completed (R25, R99). -/
def bootPcAfter (s : State) : BitVec 3 :=
  match s.cfg.cmdSource with
  | .boot => s.bootPc + 1
  | .external => s.bootPc

/-- The state a turned-away command leaves (R108): the fault recorded, nothing else. -/
def faulted (f : FaultCause) (i : Instr) (s : State) : State :=
  { s with busy := false, fault := true, faultCause := f, faultCmd := encode i }

/-! The snapshots of the primitives (R81 to R83, R126 to R128), oldest first. -/

/-- The pins while address `a` is presented, over the pins before. -/
def Pins.withAddr (p : Pins) (a : Addr) : Pins :=
  { p with adOut := addrLow a, ahOut := addrMid a, a14Out := addrTop a }

def latchTrace (a : Addr) (p : Pins) : List Snapshot :=
  let q := p.withAddr a
  let h := { q with haDir := .driving }
  let d := { h with adDir := .driving }
  [⟨{ p with adOut := addrLow a }, .z⟩,
   ⟨{ p with adOut := addrLow a, ahOut := addrMid a }, .z⟩,
   ⟨q, .z⟩,
   ⟨h, .z⟩,
   ⟨d, .level (addrLow a)⟩,
   ⟨{ d with aleOut := true }, .level (addrLow a)⟩,
   ⟨d, .level (addrLow a)⟩,
   ⟨h, .z⟩]

def writeTrace (v : Byte) (p : Pins) : List Snapshot :=
  let q := { p with adOut := v }
  let d := { q with adDir := .driving }
  [⟨q, .z⟩, ⟨d, .level v⟩, ⟨{ d with wrNOut := false }, .level v⟩, ⟨d, .level v⟩, ⟨q, .z⟩]

def readTrace (v : Byte) (p : Pins) : List Snapshot :=
  let r := { p with rdNOut := false }
  [⟨r, .level v⟩, ⟨r, .level v⟩, ⟨r, .level v⟩, ⟨p, .z⟩]

/-! The memory procedures as functions of the device alone: what R86 to R88 compute, with no pin and no register. -/

/-- A memory and a count of mismatches. -/
abbrev Tallied := Memory × Nat

/-- One compare of R86 or R88: the byte the device gives at `a` against `p`. -/
def refCompare (d : Device) (a : Addr) (p : Byte) (mt : Tallied) : Tallied :=
  (mt.1, if deviceResp d mt.1 a ≠ p then mt.2 + 1 else mt.2)

/-- One write. -/
def refStore (d : Device) (a : Addr) (p : Byte) (mt : Tallied) : Tallied := (deviceStore d mt.1 a p, mt.2)

/-- The addresses of a self-test, in their order: `(start + k) mod 2^15` (R48, R86). -/
def rangeAddrs (start : Addr) (len : Nat) : List Addr :=
  (List.range len).map fun k => BitVec.ofNat 15 ((start.toNat + k) % 2 ^ 15)

/-- The bytes of PATTERN, in its fixed order (R34). -/
def refPatterns : List Byte := [0x55, 0xAA, 0xFF, 0x00]

/-- R86 on the device: strategy (a) and strategy (b). -/
def refSweep (d : Device) (start : Addr) (len : Nat) (strat : Strategy) (m : Memory) : Tallied :=
  match strat with
  | .perAddress =>
    (rangeAddrs start len).foldl
      (fun mt a => refPatterns.foldl (fun mt p => refCompare d a p (refStore d a p mt)) mt) (m, 0)
  | .perPattern =>
    refPatterns.foldl
      (fun mt p =>
        (rangeAddrs start len).foldl (fun mt a => refCompare d a p mt)
          ((rangeAddrs start len).foldl (fun mt a => refStore d a p mt) mt)) (m, 0)

/-- R87 on the device. -/
def refProgram (d : Device) (image : List Byte) (m : Memory) : Memory :=
  (indexedImage image).foldl (fun m ib => deviceStore d m (BitVec.ofNat 15 ib.1) ib.2) m

/-- R88 on the device: how many image bytes the device gives differently. -/
def refMismatches (d : Device) (image : List Byte) (m : Memory) : Nat :=
  (indexedImage image).countP (fun ib => decide (deviceResp d m (BitVec.ofNat 15 ib.1) ≠ ib.2))

/-! Short sequences of commands that rules speak of. -/

/-- Commands one after the other, until one answers no next state. -/
def execAll : List Instr → State → Host.Outcome State Fault Refusal
  | [], s => .next s
  | i :: rest, s =>
    match exec i s with
    | .next t => execAll rest t
    | .fault r => .fault r
    | .refused r => .refused r

/-- `PROGRAM ; VERIFY`, `n` times (R95). -/
def passes (n : Nat) : List Instr := (List.replicate n [Instr.program, Instr.verify]).flatten

/-- A write pass in a given order of visits: `WRAT i, IMAGE[i]` each (R73, R94). -/
def writeVisits (visits : List (Nat × Byte)) : List Instr :=
  visits.flatMap fun ib => [.latch (BitVec.ofNat 15 ib.1), .write ib.2]

end Sys2Proof.Machine
end

