-- ==== Sys2Proof/Laws/State.lean ====
section
/-! SUPPORT. Laws/State.lean: the small lemmas of the wires, and one lemma per field per update of State, so that no
proof unfolds a record update. -/

namespace Sys2Proof.Machine

/-! The wires: a held target drives none of them (R116). -/

@[simp] theorem lineOf_idle (level : Bool) : lineOf .idle level = .z := rfl
@[simp] theorem lineOf_driving (level : Bool) : lineOf .driving level = if level then .high else .low := rfl

theorem targetDrives_held {s : State} (h : s.tgt = .held) (drive : Option Bool) : targetDrives drive s = [] := by
  rw [targetDrives, h]

theorem ctrlWire_held {s : State} (h : s.tgt = .held) (dir : Role) (level : Bool) (drive : Option Bool) :
    ctrlWire dir level drive s = lineOf dir level := by
  rw [ctrlWire, targetDrivesCtrl, targetDrives_held h, List.append_nil, lineOf]

theorem aleWire_held {s : State} (h : s.tgt = .held) (p : Pins) : aleWire p s = p.aleLine := ctrlWire_held h ..
theorem wrWire_held {s : State} (h : s.tgt = .held) (p : Pins) : wrWire p s = p.wrLine := ctrlWire_held h ..
theorem rdWire_held {s : State} (h : s.tgt = .held) (p : Pins) : rdWire p s = p.rdLine := ctrlWire_held h ..

/-- What AD wire `i` carries is resolved from that wire's drivers alone (R55). -/
@[simp] theorem adWires_getElem (p : Pins) (s : State) (i : Nat) (h : i < 8) :
    (adWires p s)[i] = resolve (adDrivers p s ⟨i, h⟩) := Vector.getElem_ofFn h

/-- What high address wire `i` carries is resolved from that wire's drivers alone (R55). -/
@[simp] theorem haWires_getElem (p : Pins) (s : State) (i : Nat) (h : i < 7) :
    (haWires p s)[i] = resolve (haDrivers p s ⟨i, h⟩) := Vector.getElem_ofFn h

@[simp] theorem Wires.z_getElem {w i : Nat} (h : i < w) : (Wires.z : Wires w)[i] = .z := Vector.getElem_ofFn h

@[simp] theorem Wires.level_getElem {w i : Nat} (v : BitVec w) (h : i < w) :
    (Wires.level v)[i] = if v[i] then .high else .low := Vector.getElem_ofFn h

/-- A wire that the host alone can drive is never in contention. -/
theorem lineOf_ne_contention (dir : Role) (level : Bool) : lineOf dir level ≠ .contention := by
  cases dir <;> cases level <;> exact fun h => nomatch h

/-- Nor is one that the target alone drives, however it runs. -/
theorem resolve_targetDrives_ne_contention (drive : Option Bool) (s : State) :
    resolve (targetDrives drive s) ≠ .contention := by
  unfold targetDrives
  cases s.tgt <;> rcases drive with _ | _ | _ <;> exact fun h => nomatch h

/-- Some wire of a group is in contention (R56). -/
theorem Wires.contention_mem {w : Nat} {ws : Wires w} :
    Line.contention ∈ ws ↔ ∃ (i : Nat) (h : i < w), ws[i] = .contention := Vector.mem_iff_getElem

@[simp] theorem Wires.z_clean {w : Nat} : Line.contention ∉ (Wires.z : Wires w) := by
  simp [Wires.contention_mem]

@[simp] theorem Wires.level_clean {w : Nat} (v : BitVec w) : Line.contention ∉ Wires.level v := by
  rw [Wires.contention_mem]
  rintro ⟨i, h, e⟩
  rw [Wires.level_getElem] at e
  split at e <;> exact nomatch e

/-- A capture takes each wire's level, and a free bit where there is none (R58). -/
@[simp] theorem Wires.taken_getElem {w i : Nat} (free : BitVec w) (ws : Wires w) (h : i < w) :
    (ws.taken free)[i] = ws[i].level?.getD free[i] := BitVec.getElem_ofFnLE _ i h

/-- A capture takes a clean level whole (R58). -/
@[simp] theorem Wires.taken_level {w : Nat} (free v : BitVec w) : (Wires.level v).taken free = v := by
  ext i h
  rw [Wires.taken_getElem, Wires.level_getElem]
  cases v[i] <;> rfl

/-- A group has a value exactly when every wire has that value's level (R59). -/
theorem Wires.value?_eq_some {w : Nat} {ws : Wires w} {v : BitVec w} : ws.value? = some v ↔ ws = .level v := by
  constructor
  · intro h
    unfold Wires.value? at h
    split at h
    case isTrue levels =>
      cases h
      refine Vector.ext fun i hi => ?_
      have some := levels ⟨i, hi⟩
      rw [Fin.getElem_fin] at some
      rw [Wires.level_getElem, Wires.taken_getElem]
      generalize ws[i] = line at some
      cases line <;> first | rfl | exact nomatch some
    case isFalse => exact nomatch h
  · rintro rfl
    rw [Wires.value?, if_pos, Wires.taken_level]
    intro i
    rw [Fin.getElem_fin, Wires.level_getElem]
    cases v[i] <;> rfl

@[simp] theorem Wires.value?_level {w : Nat} (v : BitVec w) : (Wires.level v).value? = some v :=
  Wires.value?_eq_some.2 rfl

/-- A commit of a clean level is the device's store (R59). -/
@[simp] theorem committed_level (v : Byte) (s : State) :
    committed (.level v) s = deviceStore s.cfg.dev s.extMem s.extLatch v := by
  rw [committed, Wires.value?_level]

/-- A group with a floating or contended wire has no value (R59). -/
theorem Wires.value?_eq_none {w i : Nat} {ws : Wires w} (h : i < w) (e : ws[i].level? = none) : ws.value? = none := by
  rw [Wires.value?, if_neg]
  intro levels
  have := levels ⟨i, h⟩
  rw [Fin.getElem_fin, e] at this
  exact nomatch this

/-- A /RD wire with a level reads as it (R55). -/
theorem rdLow_of_low {s : State} {p : Pins} (h : rdWire p s = .low) : rdLow p s = true := by
  unfold rdLow
  rw [h]

theorem rdLow_of_high {s : State} {p : Pins} (h : rdWire p s = .high) : rdLow p s = false := by
  unfold rdLow
  rw [h]

/-- While the host does not drive AD and the target is held, AD has at most one driver, the memory device. -/
theorem adWires_idle_held {s : State} {p : Pins} (hp : p.adDir = .idle) (ht : s.tgt = .held) :
    adWires p s = if rdLow p s then .level (deviceResp s.cfg.dev s.extMem s.extLatch) else .z := by
  unfold adWires adDrivers deviceDrives
  simp only [hp, targetDrives_held ht, List.append_nil]
  cases rdLow p s <;> rfl

/-! `pinStep` -/

@[simp] theorem pinStep_cfg (p : Pins) (s : State) : (pinStep p s).cfg = s.cfg := rfl
@[simp] theorem pinStep_pins (p : Pins) (s : State) : (pinStep p s).pins = p := rfl
@[simp] theorem pinStep_phase (p : Pins) (s : State) : (pinStep p s).phase = s.phase := rfl
@[simp] theorem pinStep_busy (p : Pins) (s : State) : (pinStep p s).busy = s.busy := rfl
@[simp] theorem pinStep_fault (p : Pins) (s : State) : (pinStep p s).fault = s.fault := rfl
@[simp] theorem pinStep_faultCause (p : Pins) (s : State) : (pinStep p s).faultCause = s.faultCause := rfl
@[simp] theorem pinStep_faultCmd (p : Pins) (s : State) : (pinStep p s).faultCmd = s.faultCmd := rfl
@[simp] theorem pinStep_bootPc (p : Pins) (s : State) : (pinStep p s).bootPc = s.bootPc := rfl
@[simp] theorem pinStep_latchedAddr (p : Pins) (s : State) : (pinStep p s).latchedAddr = s.latchedAddr := rfl
@[simp] theorem pinStep_addrValid (p : Pins) (s : State) : (pinStep p s).addrValid = s.addrValid := rfl
@[simp] theorem pinStep_writeArmed (p : Pins) (s : State) : (pinStep p s).writeArmed = s.writeArmed := rfl
@[simp] theorem pinStep_lastRead (p : Pins) (s : State) : (pinStep p s).lastRead = s.lastRead := rfl
@[simp] theorem pinStep_errTally (p : Pins) (s : State) : (pinStep p s).errTally = s.errTally := rfl
@[simp] theorem pinStep_stErrors (p : Pins) (s : State) : (pinStep p s).stErrors = s.stErrors := rfl
@[simp] theorem pinStep_stTested (p : Pins) (s : State) : (pinStep p s).stTested = s.stTested := rfl
@[simp] theorem pinStep_stPass (p : Pins) (s : State) : (pinStep p s).stPass = s.stPass := rfl
@[simp] theorem pinStep_stDone (p : Pins) (s : State) : (pinStep p s).stDone = s.stDone := rfl
@[simp] theorem pinStep_pgWritten (p : Pins) (s : State) : (pinStep p s).pgWritten = s.pgWritten := rfl
@[simp] theorem pinStep_pgDone (p : Pins) (s : State) : (pinStep p s).pgDone = s.pgDone := rfl
@[simp] theorem pinStep_vfErrors (p : Pins) (s : State) : (pinStep p s).vfErrors = s.vfErrors := rfl
@[simp] theorem pinStep_vfChecked (p : Pins) (s : State) : (pinStep p s).vfChecked = s.vfChecked := rfl
@[simp] theorem pinStep_vfPass (p : Pins) (s : State) : (pinStep p s).vfPass = s.vfPass := rfl
@[simp] theorem pinStep_vfDone (p : Pins) (s : State) : (pinStep p s).vfDone = s.vfDone := rfl
@[simp] theorem pinStep_addrCnt (p : Pins) (s : State) : (pinStep p s).addrCnt = s.addrCnt := rfl
@[simp] theorem pinStep_patIdx (p : Pins) (s : State) : (pinStep p s).patIdx = s.patIdx := rfl
@[simp] theorem pinStep_sample (p : Pins) (s : State) : (pinStep p s).sample = s.sample := rfl
@[simp] theorem pinStep_extLatch (p : Pins) (s : State) : (pinStep p s).extLatch = latchAfter s.pins p s := rfl
@[simp] theorem pinStep_extMem (p : Pins) (s : State) : (pinStep p s).extMem = memAfter s.pins p s := rfl
@[simp] theorem pinStep_tgt (p : Pins) (s : State) : (pinStep p s).tgt = targetAfter s.pins p s := rfl
@[simp] theorem pinStep_rdSettled (p : Pins) (s : State) : (pinStep p s).rdSettled = settledAfter p s := rfl
@[simp] theorem pinStep_traceRev (p : Pins) (s : State) : (pinStep p s).traceRev = ⟨p, adWires p s⟩ :: s.traceRev := rfl
@[simp] theorem pinStep_eventsRev (p : Pins) (s : State) : (pinStep p s).eventsRev = s.eventsRev := rfl
@[simp] theorem pinStep_issuer (p : Pins) (s : State) : (pinStep p s).issuer = s.issuer := rfl
@[simp] theorem pinStep_hostReset (p : Pins) (s : State) : (pinStep p s).hostReset = s.hostReset := rfl
@[simp] theorem pinStep_drawCount (p : Pins) (s : State) : (pinStep p s).drawCount = s.drawCount + 1 := rfl

/-! `emit` -/

@[simp] theorem emit_cfg (e : EmitOp) (s : State) : (emit e s).cfg = s.cfg := rfl
@[simp] theorem emit_pins (e : EmitOp) (s : State) : (emit e s).pins = s.pins := rfl
@[simp] theorem emit_phase (e : EmitOp) (s : State) : (emit e s).phase = s.phase := rfl
@[simp] theorem emit_busy (e : EmitOp) (s : State) : (emit e s).busy = s.busy := rfl
@[simp] theorem emit_fault (e : EmitOp) (s : State) : (emit e s).fault = s.fault := rfl
@[simp] theorem emit_faultCause (e : EmitOp) (s : State) : (emit e s).faultCause = s.faultCause := rfl
@[simp] theorem emit_faultCmd (e : EmitOp) (s : State) : (emit e s).faultCmd = s.faultCmd := rfl
@[simp] theorem emit_bootPc (e : EmitOp) (s : State) : (emit e s).bootPc = s.bootPc := rfl
@[simp] theorem emit_latchedAddr (e : EmitOp) (s : State) : (emit e s).latchedAddr = s.latchedAddr := rfl
@[simp] theorem emit_addrValid (e : EmitOp) (s : State) : (emit e s).addrValid = s.addrValid := rfl
@[simp] theorem emit_writeArmed (e : EmitOp) (s : State) : (emit e s).writeArmed = s.writeArmed := rfl
@[simp] theorem emit_lastRead (e : EmitOp) (s : State) : (emit e s).lastRead = s.lastRead := rfl
@[simp] theorem emit_errTally (e : EmitOp) (s : State) : (emit e s).errTally = s.errTally := rfl
@[simp] theorem emit_stErrors (e : EmitOp) (s : State) : (emit e s).stErrors = s.stErrors := rfl
@[simp] theorem emit_stTested (e : EmitOp) (s : State) : (emit e s).stTested = s.stTested := rfl
@[simp] theorem emit_stPass (e : EmitOp) (s : State) : (emit e s).stPass = s.stPass := rfl
@[simp] theorem emit_stDone (e : EmitOp) (s : State) : (emit e s).stDone = s.stDone := rfl
@[simp] theorem emit_pgWritten (e : EmitOp) (s : State) : (emit e s).pgWritten = s.pgWritten := rfl
@[simp] theorem emit_pgDone (e : EmitOp) (s : State) : (emit e s).pgDone = s.pgDone := rfl
@[simp] theorem emit_vfErrors (e : EmitOp) (s : State) : (emit e s).vfErrors = s.vfErrors := rfl
@[simp] theorem emit_vfChecked (e : EmitOp) (s : State) : (emit e s).vfChecked = s.vfChecked := rfl
@[simp] theorem emit_vfPass (e : EmitOp) (s : State) : (emit e s).vfPass = s.vfPass := rfl
@[simp] theorem emit_vfDone (e : EmitOp) (s : State) : (emit e s).vfDone = s.vfDone := rfl
@[simp] theorem emit_addrCnt (e : EmitOp) (s : State) : (emit e s).addrCnt = s.addrCnt := rfl
@[simp] theorem emit_patIdx (e : EmitOp) (s : State) : (emit e s).patIdx = s.patIdx := rfl
@[simp] theorem emit_sample (e : EmitOp) (s : State) : (emit e s).sample = s.sample := rfl
@[simp] theorem emit_extLatch (e : EmitOp) (s : State) : (emit e s).extLatch = s.extLatch := rfl
@[simp] theorem emit_extMem (e : EmitOp) (s : State) : (emit e s).extMem = s.extMem := rfl
@[simp] theorem emit_tgt (e : EmitOp) (s : State) : (emit e s).tgt = s.tgt := rfl
@[simp] theorem emit_rdSettled (e : EmitOp) (s : State) : (emit e s).rdSettled = s.rdSettled := rfl
@[simp] theorem emit_traceRev (e : EmitOp) (s : State) : (emit e s).traceRev = s.traceRev := rfl
@[simp] theorem emit_eventsRev (e : EmitOp) (s : State) : (emit e s).eventsRev = e.event s :: s.eventsRev := rfl
@[simp] theorem emit_issuer (e : EmitOp) (s : State) : (emit e s).issuer = s.issuer := rfl
@[simp] theorem emit_hostReset (e : EmitOp) (s : State) : (emit e s).hostReset = s.hostReset := rfl
@[simp] theorem emit_drawCount (e : EmitOp) (s : State) : (emit e s).drawCount = s.drawCount := rfl

/-! `setBusy` -/

@[simp] theorem setBusy_cfg (b : Bool) (s : State) : (setBusy b s).cfg = s.cfg := rfl
@[simp] theorem setBusy_pins (b : Bool) (s : State) : (setBusy b s).pins = s.pins := rfl
@[simp] theorem setBusy_phase (b : Bool) (s : State) : (setBusy b s).phase = s.phase := rfl
@[simp] theorem setBusy_busy (b : Bool) (s : State) : (setBusy b s).busy = b := rfl
@[simp] theorem setBusy_fault (b : Bool) (s : State) : (setBusy b s).fault = s.fault := rfl
@[simp] theorem setBusy_faultCause (b : Bool) (s : State) : (setBusy b s).faultCause = s.faultCause := rfl
@[simp] theorem setBusy_faultCmd (b : Bool) (s : State) : (setBusy b s).faultCmd = s.faultCmd := rfl
@[simp] theorem setBusy_bootPc (b : Bool) (s : State) : (setBusy b s).bootPc = s.bootPc := rfl
@[simp] theorem setBusy_latchedAddr (b : Bool) (s : State) : (setBusy b s).latchedAddr = s.latchedAddr := rfl
@[simp] theorem setBusy_addrValid (b : Bool) (s : State) : (setBusy b s).addrValid = s.addrValid := rfl
@[simp] theorem setBusy_writeArmed (b : Bool) (s : State) : (setBusy b s).writeArmed = s.writeArmed := rfl
@[simp] theorem setBusy_lastRead (b : Bool) (s : State) : (setBusy b s).lastRead = s.lastRead := rfl
@[simp] theorem setBusy_errTally (b : Bool) (s : State) : (setBusy b s).errTally = s.errTally := rfl
@[simp] theorem setBusy_stErrors (b : Bool) (s : State) : (setBusy b s).stErrors = s.stErrors := rfl
@[simp] theorem setBusy_stTested (b : Bool) (s : State) : (setBusy b s).stTested = s.stTested := rfl
@[simp] theorem setBusy_stPass (b : Bool) (s : State) : (setBusy b s).stPass = s.stPass := rfl
@[simp] theorem setBusy_stDone (b : Bool) (s : State) : (setBusy b s).stDone = s.stDone := rfl
@[simp] theorem setBusy_pgWritten (b : Bool) (s : State) : (setBusy b s).pgWritten = s.pgWritten := rfl
@[simp] theorem setBusy_pgDone (b : Bool) (s : State) : (setBusy b s).pgDone = s.pgDone := rfl
@[simp] theorem setBusy_vfErrors (b : Bool) (s : State) : (setBusy b s).vfErrors = s.vfErrors := rfl
@[simp] theorem setBusy_vfChecked (b : Bool) (s : State) : (setBusy b s).vfChecked = s.vfChecked := rfl
@[simp] theorem setBusy_vfPass (b : Bool) (s : State) : (setBusy b s).vfPass = s.vfPass := rfl
@[simp] theorem setBusy_vfDone (b : Bool) (s : State) : (setBusy b s).vfDone = s.vfDone := rfl
@[simp] theorem setBusy_addrCnt (b : Bool) (s : State) : (setBusy b s).addrCnt = s.addrCnt := rfl
@[simp] theorem setBusy_patIdx (b : Bool) (s : State) : (setBusy b s).patIdx = s.patIdx := rfl
@[simp] theorem setBusy_sample (b : Bool) (s : State) : (setBusy b s).sample = s.sample := rfl
@[simp] theorem setBusy_extLatch (b : Bool) (s : State) : (setBusy b s).extLatch = s.extLatch := rfl
@[simp] theorem setBusy_extMem (b : Bool) (s : State) : (setBusy b s).extMem = s.extMem := rfl
@[simp] theorem setBusy_tgt (b : Bool) (s : State) : (setBusy b s).tgt = s.tgt := rfl
@[simp] theorem setBusy_rdSettled (b : Bool) (s : State) : (setBusy b s).rdSettled = s.rdSettled := rfl
@[simp] theorem setBusy_traceRev (b : Bool) (s : State) : (setBusy b s).traceRev = s.traceRev := rfl
@[simp] theorem setBusy_eventsRev (b : Bool) (s : State) : (setBusy b s).eventsRev = s.eventsRev := rfl
@[simp] theorem setBusy_issuer (b : Bool) (s : State) : (setBusy b s).issuer = s.issuer := rfl
@[simp] theorem setBusy_hostReset (b : Bool) (s : State) : (setBusy b s).hostReset = s.hostReset := rfl
@[simp] theorem setBusy_drawCount (b : Bool) (s : State) : (setBusy b s).drawCount = s.drawCount := rfl

/-! `faultEntry` -/

@[simp] theorem faultEntry_cfg (f : FaultCause) (w : CmdWord) (s : State) : (faultEntry f w s).cfg = s.cfg := rfl
@[simp] theorem faultEntry_pins (f : FaultCause) (w : CmdWord) (s : State) : (faultEntry f w s).pins = s.pins := rfl
@[simp] theorem faultEntry_phase (f : FaultCause) (w : CmdWord) (s : State) : (faultEntry f w s).phase = s.phase := rfl
@[simp] theorem faultEntry_busy (f : FaultCause) (w : CmdWord) (s : State) : (faultEntry f w s).busy = s.busy := rfl
@[simp] theorem faultEntry_fault (f : FaultCause) (w : CmdWord) (s : State) : (faultEntry f w s).fault = true := rfl
@[simp] theorem faultEntry_faultCause (f : FaultCause) (w : CmdWord) (s : State) : (faultEntry f w s).faultCause = f := rfl
@[simp] theorem faultEntry_faultCmd (f : FaultCause) (w : CmdWord) (s : State) : (faultEntry f w s).faultCmd = w := rfl
@[simp] theorem faultEntry_bootPc (f : FaultCause) (w : CmdWord) (s : State) : (faultEntry f w s).bootPc = s.bootPc := rfl
@[simp] theorem faultEntry_latchedAddr (f : FaultCause) (w : CmdWord) (s : State) : (faultEntry f w s).latchedAddr = s.latchedAddr := rfl
@[simp] theorem faultEntry_addrValid (f : FaultCause) (w : CmdWord) (s : State) : (faultEntry f w s).addrValid = s.addrValid := rfl
@[simp] theorem faultEntry_writeArmed (f : FaultCause) (w : CmdWord) (s : State) : (faultEntry f w s).writeArmed = s.writeArmed := rfl
@[simp] theorem faultEntry_lastRead (f : FaultCause) (w : CmdWord) (s : State) : (faultEntry f w s).lastRead = s.lastRead := rfl
@[simp] theorem faultEntry_errTally (f : FaultCause) (w : CmdWord) (s : State) : (faultEntry f w s).errTally = s.errTally := rfl
@[simp] theorem faultEntry_stErrors (f : FaultCause) (w : CmdWord) (s : State) : (faultEntry f w s).stErrors = s.stErrors := rfl
@[simp] theorem faultEntry_stTested (f : FaultCause) (w : CmdWord) (s : State) : (faultEntry f w s).stTested = s.stTested := rfl
@[simp] theorem faultEntry_stPass (f : FaultCause) (w : CmdWord) (s : State) : (faultEntry f w s).stPass = s.stPass := rfl
@[simp] theorem faultEntry_stDone (f : FaultCause) (w : CmdWord) (s : State) : (faultEntry f w s).stDone = s.stDone := rfl
@[simp] theorem faultEntry_pgWritten (f : FaultCause) (w : CmdWord) (s : State) : (faultEntry f w s).pgWritten = s.pgWritten := rfl
@[simp] theorem faultEntry_pgDone (f : FaultCause) (w : CmdWord) (s : State) : (faultEntry f w s).pgDone = s.pgDone := rfl
@[simp] theorem faultEntry_vfErrors (f : FaultCause) (w : CmdWord) (s : State) : (faultEntry f w s).vfErrors = s.vfErrors := rfl
@[simp] theorem faultEntry_vfChecked (f : FaultCause) (w : CmdWord) (s : State) : (faultEntry f w s).vfChecked = s.vfChecked := rfl
@[simp] theorem faultEntry_vfPass (f : FaultCause) (w : CmdWord) (s : State) : (faultEntry f w s).vfPass = s.vfPass := rfl
@[simp] theorem faultEntry_vfDone (f : FaultCause) (w : CmdWord) (s : State) : (faultEntry f w s).vfDone = s.vfDone := rfl
@[simp] theorem faultEntry_addrCnt (f : FaultCause) (w : CmdWord) (s : State) : (faultEntry f w s).addrCnt = s.addrCnt := rfl
@[simp] theorem faultEntry_patIdx (f : FaultCause) (w : CmdWord) (s : State) : (faultEntry f w s).patIdx = s.patIdx := rfl
@[simp] theorem faultEntry_sample (f : FaultCause) (w : CmdWord) (s : State) : (faultEntry f w s).sample = s.sample := rfl
@[simp] theorem faultEntry_extLatch (f : FaultCause) (w : CmdWord) (s : State) : (faultEntry f w s).extLatch = s.extLatch := rfl
@[simp] theorem faultEntry_extMem (f : FaultCause) (w : CmdWord) (s : State) : (faultEntry f w s).extMem = s.extMem := rfl
@[simp] theorem faultEntry_tgt (f : FaultCause) (w : CmdWord) (s : State) : (faultEntry f w s).tgt = s.tgt := rfl
@[simp] theorem faultEntry_rdSettled (f : FaultCause) (w : CmdWord) (s : State) : (faultEntry f w s).rdSettled = s.rdSettled := rfl
@[simp] theorem faultEntry_traceRev (f : FaultCause) (w : CmdWord) (s : State) : (faultEntry f w s).traceRev = s.traceRev := rfl
@[simp] theorem faultEntry_eventsRev (f : FaultCause) (w : CmdWord) (s : State) : (faultEntry f w s).eventsRev = s.eventsRev := rfl
@[simp] theorem faultEntry_issuer (f : FaultCause) (w : CmdWord) (s : State) : (faultEntry f w s).issuer = s.issuer := rfl
@[simp] theorem faultEntry_hostReset (f : FaultCause) (w : CmdWord) (s : State) : (faultEntry f w s).hostReset = s.hostReset := rfl
@[simp] theorem faultEntry_drawCount (f : FaultCause) (w : CmdWord) (s : State) : (faultEntry f w s).drawCount = s.drawCount := rfl

/-! `releaseWork` -/

@[simp] theorem releaseWork_cfg (s : State) : (releaseWork s).cfg = s.cfg := rfl
@[simp] theorem releaseWork_pins (s : State) : (releaseWork s).pins = s.pins := rfl
@[simp] theorem releaseWork_phase (s : State) : (releaseWork s).phase = s.phase := rfl
@[simp] theorem releaseWork_busy (s : State) : (releaseWork s).busy = s.busy := rfl
@[simp] theorem releaseWork_fault (s : State) : (releaseWork s).fault = s.fault := rfl
@[simp] theorem releaseWork_faultCause (s : State) : (releaseWork s).faultCause = s.faultCause := rfl
@[simp] theorem releaseWork_faultCmd (s : State) : (releaseWork s).faultCmd = s.faultCmd := rfl
@[simp] theorem releaseWork_bootPc (s : State) : (releaseWork s).bootPc = s.bootPc := rfl
@[simp] theorem releaseWork_latchedAddr (s : State) : (releaseWork s).latchedAddr = s.latchedAddr := rfl
@[simp] theorem releaseWork_addrValid (s : State) : (releaseWork s).addrValid = s.addrValid := rfl
@[simp] theorem releaseWork_writeArmed (s : State) : (releaseWork s).writeArmed = s.writeArmed := rfl
@[simp] theorem releaseWork_lastRead (s : State) : (releaseWork s).lastRead = s.lastRead := rfl
@[simp] theorem releaseWork_errTally (s : State) : (releaseWork s).errTally = s.errTally := rfl
@[simp] theorem releaseWork_stErrors (s : State) : (releaseWork s).stErrors = s.stErrors := rfl
@[simp] theorem releaseWork_stTested (s : State) : (releaseWork s).stTested = s.stTested := rfl
@[simp] theorem releaseWork_stPass (s : State) : (releaseWork s).stPass = s.stPass := rfl
@[simp] theorem releaseWork_stDone (s : State) : (releaseWork s).stDone = s.stDone := rfl
@[simp] theorem releaseWork_pgWritten (s : State) : (releaseWork s).pgWritten = s.pgWritten := rfl
@[simp] theorem releaseWork_pgDone (s : State) : (releaseWork s).pgDone = s.pgDone := rfl
@[simp] theorem releaseWork_vfErrors (s : State) : (releaseWork s).vfErrors = s.vfErrors := rfl
@[simp] theorem releaseWork_vfChecked (s : State) : (releaseWork s).vfChecked = s.vfChecked := rfl
@[simp] theorem releaseWork_vfPass (s : State) : (releaseWork s).vfPass = s.vfPass := rfl
@[simp] theorem releaseWork_vfDone (s : State) : (releaseWork s).vfDone = s.vfDone := rfl
@[simp] theorem releaseWork_addrCnt (s : State) : (releaseWork s).addrCnt = Config.freeAddrCnt s.drawCount := rfl
@[simp] theorem releaseWork_patIdx (s : State) : (releaseWork s).patIdx = Config.freePatIdx s.drawCount := rfl
@[simp] theorem releaseWork_sample (s : State) : (releaseWork s).sample = Config.freeSampleReg s.drawCount := rfl
@[simp] theorem releaseWork_extLatch (s : State) : (releaseWork s).extLatch = s.extLatch := rfl
@[simp] theorem releaseWork_extMem (s : State) : (releaseWork s).extMem = s.extMem := rfl
@[simp] theorem releaseWork_tgt (s : State) : (releaseWork s).tgt = s.tgt := rfl
@[simp] theorem releaseWork_rdSettled (s : State) : (releaseWork s).rdSettled = s.rdSettled := rfl
@[simp] theorem releaseWork_traceRev (s : State) : (releaseWork s).traceRev = s.traceRev := rfl
@[simp] theorem releaseWork_eventsRev (s : State) : (releaseWork s).eventsRev = s.eventsRev := rfl
@[simp] theorem releaseWork_issuer (s : State) : (releaseWork s).issuer = s.issuer := rfl
@[simp] theorem releaseWork_hostReset (s : State) : (releaseWork s).hostReset = s.hostReset := rfl
@[simp] theorem releaseWork_drawCount (s : State) : (releaseWork s).drawCount = s.drawCount + 1 := rfl

/-! `advanceBoot` -/

@[simp] theorem advanceBoot_cfg (s : State) : (advanceBoot s).cfg = s.cfg := by unfold advanceBoot; split <;> rfl
@[simp] theorem advanceBoot_pins (s : State) : (advanceBoot s).pins = s.pins := by unfold advanceBoot; split <;> rfl
@[simp] theorem advanceBoot_phase (s : State) : (advanceBoot s).phase = s.phase := by unfold advanceBoot; split <;> rfl
@[simp] theorem advanceBoot_busy (s : State) : (advanceBoot s).busy = s.busy := by unfold advanceBoot; split <;> rfl
@[simp] theorem advanceBoot_fault (s : State) : (advanceBoot s).fault = s.fault := by unfold advanceBoot; split <;> rfl
@[simp] theorem advanceBoot_faultCause (s : State) : (advanceBoot s).faultCause = s.faultCause := by unfold advanceBoot; split <;> rfl
@[simp] theorem advanceBoot_faultCmd (s : State) : (advanceBoot s).faultCmd = s.faultCmd := by unfold advanceBoot; split <;> rfl
@[simp] theorem advanceBoot_bootPc (s : State) : (advanceBoot s).bootPc = bootPcAfter s := by unfold advanceBoot bootPcAfter; split <;> simp_all
@[simp] theorem advanceBoot_latchedAddr (s : State) : (advanceBoot s).latchedAddr = s.latchedAddr := by unfold advanceBoot; split <;> rfl
@[simp] theorem advanceBoot_addrValid (s : State) : (advanceBoot s).addrValid = s.addrValid := by unfold advanceBoot; split <;> rfl
@[simp] theorem advanceBoot_writeArmed (s : State) : (advanceBoot s).writeArmed = s.writeArmed := by unfold advanceBoot; split <;> rfl
@[simp] theorem advanceBoot_lastRead (s : State) : (advanceBoot s).lastRead = s.lastRead := by unfold advanceBoot; split <;> rfl
@[simp] theorem advanceBoot_errTally (s : State) : (advanceBoot s).errTally = s.errTally := by unfold advanceBoot; split <;> rfl
@[simp] theorem advanceBoot_stErrors (s : State) : (advanceBoot s).stErrors = s.stErrors := by unfold advanceBoot; split <;> rfl
@[simp] theorem advanceBoot_stTested (s : State) : (advanceBoot s).stTested = s.stTested := by unfold advanceBoot; split <;> rfl
@[simp] theorem advanceBoot_stPass (s : State) : (advanceBoot s).stPass = s.stPass := by unfold advanceBoot; split <;> rfl
@[simp] theorem advanceBoot_stDone (s : State) : (advanceBoot s).stDone = s.stDone := by unfold advanceBoot; split <;> rfl
@[simp] theorem advanceBoot_pgWritten (s : State) : (advanceBoot s).pgWritten = s.pgWritten := by unfold advanceBoot; split <;> rfl
@[simp] theorem advanceBoot_pgDone (s : State) : (advanceBoot s).pgDone = s.pgDone := by unfold advanceBoot; split <;> rfl
@[simp] theorem advanceBoot_vfErrors (s : State) : (advanceBoot s).vfErrors = s.vfErrors := by unfold advanceBoot; split <;> rfl
@[simp] theorem advanceBoot_vfChecked (s : State) : (advanceBoot s).vfChecked = s.vfChecked := by unfold advanceBoot; split <;> rfl
@[simp] theorem advanceBoot_vfPass (s : State) : (advanceBoot s).vfPass = s.vfPass := by unfold advanceBoot; split <;> rfl
@[simp] theorem advanceBoot_vfDone (s : State) : (advanceBoot s).vfDone = s.vfDone := by unfold advanceBoot; split <;> rfl
@[simp] theorem advanceBoot_addrCnt (s : State) : (advanceBoot s).addrCnt = s.addrCnt := by unfold advanceBoot; split <;> rfl
@[simp] theorem advanceBoot_patIdx (s : State) : (advanceBoot s).patIdx = s.patIdx := by unfold advanceBoot; split <;> rfl
@[simp] theorem advanceBoot_sample (s : State) : (advanceBoot s).sample = s.sample := by unfold advanceBoot; split <;> rfl
@[simp] theorem advanceBoot_extLatch (s : State) : (advanceBoot s).extLatch = s.extLatch := by unfold advanceBoot; split <;> rfl
@[simp] theorem advanceBoot_extMem (s : State) : (advanceBoot s).extMem = s.extMem := by unfold advanceBoot; split <;> rfl
@[simp] theorem advanceBoot_tgt (s : State) : (advanceBoot s).tgt = s.tgt := by unfold advanceBoot; split <;> rfl
@[simp] theorem advanceBoot_rdSettled (s : State) : (advanceBoot s).rdSettled = s.rdSettled := by unfold advanceBoot; split <;> rfl
@[simp] theorem advanceBoot_traceRev (s : State) : (advanceBoot s).traceRev = s.traceRev := by unfold advanceBoot; split <;> rfl
@[simp] theorem advanceBoot_eventsRev (s : State) : (advanceBoot s).eventsRev = s.eventsRev := by unfold advanceBoot; split <;> rfl
@[simp] theorem advanceBoot_issuer (s : State) : (advanceBoot s).issuer = s.issuer := by unfold advanceBoot; split <;> rfl
@[simp] theorem advanceBoot_hostReset (s : State) : (advanceBoot s).hostReset = s.hostReset := by unfold advanceBoot; split <;> rfl
@[simp] theorem advanceBoot_drawCount (s : State) : (advanceBoot s).drawCount = s.drawCount := by unfold advanceBoot; split <;> rfl

/-! `acceptWord` -/

@[simp] theorem acceptWord_cfg (s : State) : (acceptWord s).cfg = s.cfg := by unfold acceptWord; split <;> rfl
@[simp] theorem acceptWord_pins (s : State) : (acceptWord s).pins = s.pins := by unfold acceptWord; split <;> rfl
@[simp] theorem acceptWord_phase (s : State) : (acceptWord s).phase = s.phase := by unfold acceptWord; split <;> rfl
@[simp] theorem acceptWord_busy (s : State) : (acceptWord s).busy = s.busy := by unfold acceptWord; split <;> rfl
@[simp] theorem acceptWord_fault (s : State) : (acceptWord s).fault = s.fault := by unfold acceptWord; split <;> rfl
@[simp] theorem acceptWord_faultCause (s : State) : (acceptWord s).faultCause = s.faultCause := by unfold acceptWord; split <;> rfl
@[simp] theorem acceptWord_faultCmd (s : State) : (acceptWord s).faultCmd = s.faultCmd := by unfold acceptWord; split <;> rfl
@[simp] theorem acceptWord_bootPc (s : State) : (acceptWord s).bootPc = s.bootPc := by unfold acceptWord; split <;> rfl
@[simp] theorem acceptWord_latchedAddr (s : State) : (acceptWord s).latchedAddr = s.latchedAddr := by unfold acceptWord; split <;> rfl
@[simp] theorem acceptWord_addrValid (s : State) : (acceptWord s).addrValid = s.addrValid := by unfold acceptWord; split <;> rfl
@[simp] theorem acceptWord_writeArmed (s : State) : (acceptWord s).writeArmed = s.writeArmed := by unfold acceptWord; split <;> rfl
@[simp] theorem acceptWord_lastRead (s : State) : (acceptWord s).lastRead = s.lastRead := by unfold acceptWord; split <;> rfl
@[simp] theorem acceptWord_errTally (s : State) : (acceptWord s).errTally = s.errTally := by unfold acceptWord; split <;> rfl
@[simp] theorem acceptWord_stErrors (s : State) : (acceptWord s).stErrors = s.stErrors := by unfold acceptWord; split <;> rfl
@[simp] theorem acceptWord_stTested (s : State) : (acceptWord s).stTested = s.stTested := by unfold acceptWord; split <;> rfl
@[simp] theorem acceptWord_stPass (s : State) : (acceptWord s).stPass = s.stPass := by unfold acceptWord; split <;> rfl
@[simp] theorem acceptWord_stDone (s : State) : (acceptWord s).stDone = s.stDone := by unfold acceptWord; split <;> rfl
@[simp] theorem acceptWord_pgWritten (s : State) : (acceptWord s).pgWritten = s.pgWritten := by unfold acceptWord; split <;> rfl
@[simp] theorem acceptWord_pgDone (s : State) : (acceptWord s).pgDone = s.pgDone := by unfold acceptWord; split <;> rfl
@[simp] theorem acceptWord_vfErrors (s : State) : (acceptWord s).vfErrors = s.vfErrors := by unfold acceptWord; split <;> rfl
@[simp] theorem acceptWord_vfChecked (s : State) : (acceptWord s).vfChecked = s.vfChecked := by unfold acceptWord; split <;> rfl
@[simp] theorem acceptWord_vfPass (s : State) : (acceptWord s).vfPass = s.vfPass := by unfold acceptWord; split <;> rfl
@[simp] theorem acceptWord_vfDone (s : State) : (acceptWord s).vfDone = s.vfDone := by unfold acceptWord; split <;> rfl
@[simp] theorem acceptWord_addrCnt (s : State) : (acceptWord s).addrCnt = s.addrCnt := by unfold acceptWord; split <;> rfl
@[simp] theorem acceptWord_patIdx (s : State) : (acceptWord s).patIdx = s.patIdx := by unfold acceptWord; split <;> rfl
@[simp] theorem acceptWord_sample (s : State) : (acceptWord s).sample = s.sample := by unfold acceptWord; split <;> rfl
@[simp] theorem acceptWord_extLatch (s : State) : (acceptWord s).extLatch = s.extLatch := by unfold acceptWord; split <;> rfl
@[simp] theorem acceptWord_extMem (s : State) : (acceptWord s).extMem = s.extMem := by unfold acceptWord; split <;> rfl
@[simp] theorem acceptWord_tgt (s : State) : (acceptWord s).tgt = s.tgt := by unfold acceptWord; split <;> rfl
@[simp] theorem acceptWord_rdSettled (s : State) : (acceptWord s).rdSettled = s.rdSettled := by unfold acceptWord; split <;> rfl
@[simp] theorem acceptWord_traceRev (s : State) : (acceptWord s).traceRev = s.traceRev := by unfold acceptWord; split <;> rfl
@[simp] theorem acceptWord_eventsRev (s : State) : (acceptWord s).eventsRev = s.eventsRev := by unfold acceptWord; split <;> rfl
@[simp] theorem acceptWord_hostReset (s : State) : (acceptWord s).hostReset = s.hostReset := by unfold acceptWord; split <;> rfl
@[simp] theorem acceptWord_drawCount (s : State) : (acceptWord s).drawCount = s.drawCount := by unfold acceptWord; split <;> rfl

/-! `countDown` -/

@[simp] theorem countDown_cfg (n : Nat) (s : State) : (countDown n s).cfg = s.cfg := rfl
@[simp] theorem countDown_pins (n : Nat) (s : State) : (countDown n s).pins = s.pins := rfl
@[simp] theorem countDown_phase (n : Nat) (s : State) : (countDown n s).phase = s.phase := rfl
@[simp] theorem countDown_busy (n : Nat) (s : State) : (countDown n s).busy = s.busy := rfl
@[simp] theorem countDown_fault (n : Nat) (s : State) : (countDown n s).fault = s.fault := rfl
@[simp] theorem countDown_faultCause (n : Nat) (s : State) : (countDown n s).faultCause = s.faultCause := rfl
@[simp] theorem countDown_faultCmd (n : Nat) (s : State) : (countDown n s).faultCmd = s.faultCmd := rfl
@[simp] theorem countDown_bootPc (n : Nat) (s : State) : (countDown n s).bootPc = s.bootPc := rfl
@[simp] theorem countDown_latchedAddr (n : Nat) (s : State) : (countDown n s).latchedAddr = s.latchedAddr := rfl
@[simp] theorem countDown_addrValid (n : Nat) (s : State) : (countDown n s).addrValid = s.addrValid := rfl
@[simp] theorem countDown_writeArmed (n : Nat) (s : State) : (countDown n s).writeArmed = s.writeArmed := rfl
@[simp] theorem countDown_lastRead (n : Nat) (s : State) : (countDown n s).lastRead = s.lastRead := rfl
@[simp] theorem countDown_errTally (n : Nat) (s : State) : (countDown n s).errTally = s.errTally := rfl
@[simp] theorem countDown_stErrors (n : Nat) (s : State) : (countDown n s).stErrors = s.stErrors := rfl
@[simp] theorem countDown_stTested (n : Nat) (s : State) : (countDown n s).stTested = s.stTested := rfl
@[simp] theorem countDown_stPass (n : Nat) (s : State) : (countDown n s).stPass = s.stPass := rfl
@[simp] theorem countDown_stDone (n : Nat) (s : State) : (countDown n s).stDone = s.stDone := rfl
@[simp] theorem countDown_pgWritten (n : Nat) (s : State) : (countDown n s).pgWritten = s.pgWritten := rfl
@[simp] theorem countDown_pgDone (n : Nat) (s : State) : (countDown n s).pgDone = s.pgDone := rfl
@[simp] theorem countDown_vfErrors (n : Nat) (s : State) : (countDown n s).vfErrors = s.vfErrors := rfl
@[simp] theorem countDown_vfChecked (n : Nat) (s : State) : (countDown n s).vfChecked = s.vfChecked := rfl
@[simp] theorem countDown_vfPass (n : Nat) (s : State) : (countDown n s).vfPass = s.vfPass := rfl
@[simp] theorem countDown_vfDone (n : Nat) (s : State) : (countDown n s).vfDone = s.vfDone := rfl
@[simp] theorem countDown_addrCnt (n : Nat) (s : State) : (countDown n s).addrCnt = s.addrCnt := rfl
@[simp] theorem countDown_patIdx (n : Nat) (s : State) : (countDown n s).patIdx = s.patIdx := rfl
@[simp] theorem countDown_sample (n : Nat) (s : State) : (countDown n s).sample = s.sample := rfl
@[simp] theorem countDown_extLatch (n : Nat) (s : State) : (countDown n s).extLatch = s.extLatch := rfl
@[simp] theorem countDown_extMem (n : Nat) (s : State) : (countDown n s).extMem = s.extMem := rfl
@[simp] theorem countDown_tgt (n : Nat) (s : State) : (countDown n s).tgt = s.tgt := rfl
@[simp] theorem countDown_rdSettled (n : Nat) (s : State) : (countDown n s).rdSettled = s.rdSettled := rfl
@[simp] theorem countDown_traceRev (n : Nat) (s : State) : (countDown n s).traceRev = s.traceRev := rfl
@[simp] theorem countDown_eventsRev (n : Nat) (s : State) : (countDown n s).eventsRev = s.eventsRev := rfl
@[simp] theorem countDown_issuer (n : Nat) (s : State) : (countDown n s).issuer = s.issuer := rfl
@[simp] theorem countDown_hostReset (n : Nat) (s : State) : (countDown n s).hostReset = s.hostReset.map (· - n) := rfl
@[simp] theorem countDown_drawCount (n : Nat) (s : State) : (countDown n s).drawCount = s.drawCount := rfl

/-! `targetTurn` -/

/-- A target's turn changes nothing, or the memory, the latch and the index of free values. -/
theorem targetTurn_cases (s : State) :
    targetTurn s = s ∨ ∃ m l, targetTurn s = { s with extMem := m, extLatch := l, drawCount := s.drawCount + 1 } := by
  unfold targetTurn
  split
  · exact .inl rfl
  · split
    · exact .inr ⟨_, _, rfl⟩
    · exact .inl rfl

/-- A held target takes no turn (R116). -/
theorem targetTurn_held {s : State} (h : s.tgt = .held) : targetTurn s = s := by
  unfold targetTurn
  rw [h]
  split <;> rfl

/-- Before the reset sequence the target takes no turn (R123). -/
theorem targetTurn_init {s : State} (h : s.phase = .init) : targetTurn s = s := if_pos h

@[simp] theorem targetTurn_cfg (s : State) : (targetTurn s).cfg = s.cfg := by rcases targetTurn_cases s with h | ⟨m, l, h⟩ <;> rw [h]
@[simp] theorem targetTurn_pins (s : State) : (targetTurn s).pins = s.pins := by rcases targetTurn_cases s with h | ⟨m, l, h⟩ <;> rw [h]
@[simp] theorem targetTurn_phase (s : State) : (targetTurn s).phase = s.phase := by rcases targetTurn_cases s with h | ⟨m, l, h⟩ <;> rw [h]
@[simp] theorem targetTurn_busy (s : State) : (targetTurn s).busy = s.busy := by rcases targetTurn_cases s with h | ⟨m, l, h⟩ <;> rw [h]
@[simp] theorem targetTurn_fault (s : State) : (targetTurn s).fault = s.fault := by rcases targetTurn_cases s with h | ⟨m, l, h⟩ <;> rw [h]
@[simp] theorem targetTurn_faultCause (s : State) : (targetTurn s).faultCause = s.faultCause := by rcases targetTurn_cases s with h | ⟨m, l, h⟩ <;> rw [h]
@[simp] theorem targetTurn_faultCmd (s : State) : (targetTurn s).faultCmd = s.faultCmd := by rcases targetTurn_cases s with h | ⟨m, l, h⟩ <;> rw [h]
@[simp] theorem targetTurn_bootPc (s : State) : (targetTurn s).bootPc = s.bootPc := by rcases targetTurn_cases s with h | ⟨m, l, h⟩ <;> rw [h]
@[simp] theorem targetTurn_latchedAddr (s : State) : (targetTurn s).latchedAddr = s.latchedAddr := by rcases targetTurn_cases s with h | ⟨m, l, h⟩ <;> rw [h]
@[simp] theorem targetTurn_addrValid (s : State) : (targetTurn s).addrValid = s.addrValid := by rcases targetTurn_cases s with h | ⟨m, l, h⟩ <;> rw [h]
@[simp] theorem targetTurn_writeArmed (s : State) : (targetTurn s).writeArmed = s.writeArmed := by rcases targetTurn_cases s with h | ⟨m, l, h⟩ <;> rw [h]
@[simp] theorem targetTurn_lastRead (s : State) : (targetTurn s).lastRead = s.lastRead := by rcases targetTurn_cases s with h | ⟨m, l, h⟩ <;> rw [h]
@[simp] theorem targetTurn_errTally (s : State) : (targetTurn s).errTally = s.errTally := by rcases targetTurn_cases s with h | ⟨m, l, h⟩ <;> rw [h]
@[simp] theorem targetTurn_stErrors (s : State) : (targetTurn s).stErrors = s.stErrors := by rcases targetTurn_cases s with h | ⟨m, l, h⟩ <;> rw [h]
@[simp] theorem targetTurn_stTested (s : State) : (targetTurn s).stTested = s.stTested := by rcases targetTurn_cases s with h | ⟨m, l, h⟩ <;> rw [h]
@[simp] theorem targetTurn_stPass (s : State) : (targetTurn s).stPass = s.stPass := by rcases targetTurn_cases s with h | ⟨m, l, h⟩ <;> rw [h]
@[simp] theorem targetTurn_stDone (s : State) : (targetTurn s).stDone = s.stDone := by rcases targetTurn_cases s with h | ⟨m, l, h⟩ <;> rw [h]
@[simp] theorem targetTurn_pgWritten (s : State) : (targetTurn s).pgWritten = s.pgWritten := by rcases targetTurn_cases s with h | ⟨m, l, h⟩ <;> rw [h]
@[simp] theorem targetTurn_pgDone (s : State) : (targetTurn s).pgDone = s.pgDone := by rcases targetTurn_cases s with h | ⟨m, l, h⟩ <;> rw [h]
@[simp] theorem targetTurn_vfErrors (s : State) : (targetTurn s).vfErrors = s.vfErrors := by rcases targetTurn_cases s with h | ⟨m, l, h⟩ <;> rw [h]
@[simp] theorem targetTurn_vfChecked (s : State) : (targetTurn s).vfChecked = s.vfChecked := by rcases targetTurn_cases s with h | ⟨m, l, h⟩ <;> rw [h]
@[simp] theorem targetTurn_vfPass (s : State) : (targetTurn s).vfPass = s.vfPass := by rcases targetTurn_cases s with h | ⟨m, l, h⟩ <;> rw [h]
@[simp] theorem targetTurn_vfDone (s : State) : (targetTurn s).vfDone = s.vfDone := by rcases targetTurn_cases s with h | ⟨m, l, h⟩ <;> rw [h]
@[simp] theorem targetTurn_addrCnt (s : State) : (targetTurn s).addrCnt = s.addrCnt := by rcases targetTurn_cases s with h | ⟨m, l, h⟩ <;> rw [h]
@[simp] theorem targetTurn_patIdx (s : State) : (targetTurn s).patIdx = s.patIdx := by rcases targetTurn_cases s with h | ⟨m, l, h⟩ <;> rw [h]
@[simp] theorem targetTurn_sample (s : State) : (targetTurn s).sample = s.sample := by rcases targetTurn_cases s with h | ⟨m, l, h⟩ <;> rw [h]
@[simp] theorem targetTurn_tgt (s : State) : (targetTurn s).tgt = s.tgt := by rcases targetTurn_cases s with h | ⟨m, l, h⟩ <;> rw [h]
@[simp] theorem targetTurn_rdSettled (s : State) : (targetTurn s).rdSettled = s.rdSettled := by rcases targetTurn_cases s with h | ⟨m, l, h⟩ <;> rw [h]
@[simp] theorem targetTurn_traceRev (s : State) : (targetTurn s).traceRev = s.traceRev := by rcases targetTurn_cases s with h | ⟨m, l, h⟩ <;> rw [h]
@[simp] theorem targetTurn_eventsRev (s : State) : (targetTurn s).eventsRev = s.eventsRev := by rcases targetTurn_cases s with h | ⟨m, l, h⟩ <;> rw [h]
@[simp] theorem targetTurn_issuer (s : State) : (targetTurn s).issuer = s.issuer := by rcases targetTurn_cases s with h | ⟨m, l, h⟩ <;> rw [h]
@[simp] theorem targetTurn_hostReset (s : State) : (targetTurn s).hostReset = s.hostReset := by rcases targetTurn_cases s with h | ⟨m, l, h⟩ <;> rw [h]

end Sys2Proof.Machine
end

