-- ==== Sys2Proof/Laws/Memory.lean ====
section
/-! SUPPORT. Laws/Memory.lean: reading after writing, and that every memory operation keeps the canonical form, in which
equal contents are equal data. -/

namespace Sys2Proof.Machine

theorem Memory.wfFrom_nil (lo : Nat) : Memory.wfFrom lo [] = true := rfl

theorem Memory.wfFrom_cons {lo k : Nat} {v : Byte} {rest : Memory} :
    Memory.wfFrom lo ((k, v) :: rest) = true ↔
      lo ≤ k ∧ k < 0x8000 ∧ v ≠ Memory.unlisted ∧ Memory.wfFrom (k + 1) rest = true := by
  simp [Memory.wfFrom, and_assoc]

theorem Memory.wfFrom_mono {lo lo' : Nat} {m : Memory} (h : Memory.wfFrom lo m = true) (hl : lo' ≤ lo) :
    Memory.wfFrom lo' m = true := by
  cases m with
  | nil => rfl
  | cons c rest =>
    obtain ⟨k, v⟩ := c
    rw [Memory.wfFrom_cons] at h ⊢
    exact ⟨by omega, h.2⟩

/-- A key below every listed one reads as an unlisted address does. -/
theorem Memory.get_below {lo k : Nat} {m : Memory} (h : Memory.wfFrom lo m = true) (hk : k < lo) :
    Memory.get k m = Memory.unlisted := by
  induction m generalizing lo with
  | nil => rfl
  | cons c rest ih =>
    obtain ⟨k', v⟩ := c
    rw [Memory.wfFrom_cons] at h
    rw [Memory.get, if_neg (by omega)]
    exact ih h.2.2.2 (by omega)

theorem Memory.get_put {lo k k' : Nat} {v : Byte} {m : Memory} (h : Memory.wfFrom lo m = true) :
    Memory.get k' (Memory.put k v m) = if k' = k then v else Memory.get k' m := by
  induction m generalizing lo with
  | nil =>
    rw [Memory.put]
    split
    · next hv => simp [Memory.get, hv]
    · simp [Memory.get]
  | cons c rest ih =>
    obtain ⟨k0, v0⟩ := c
    rw [Memory.wfFrom_cons] at h
    have below : ∀ j, j < k0 + 1 → Memory.get j rest = Memory.unlisted := fun j hj => Memory.get_below h.2.2.2 hj
    have hrest := ih h.2.2.2
    simp only [Memory.put]
    by_cases h1 : k < k0
    · rw [if_pos h1]
      by_cases hv : v = Memory.unlisted
      · rw [if_pos hv]
        by_cases hk : k' = k
        · rw [if_pos hk, Memory.get, if_neg (by omega), below k' (by omega), hv]
        · rw [if_neg hk]
      · rw [if_neg hv]
        rfl
    · rw [if_neg h1]
      by_cases h2 : k = k0
      · rw [if_pos h2]
        by_cases hv : v = Memory.unlisted
        · rw [if_pos hv]
          by_cases hk : k' = k
          · rw [if_pos hk, below k' (by omega), hv]
          · rw [if_neg hk, Memory.get, if_neg (by omega)]
        · rw [if_neg hv, Memory.get, Memory.get]
          by_cases hk : k' = k
          · rw [if_pos hk, if_pos hk]
          · rw [if_neg hk, if_neg hk, if_neg (by omega)]
      · rw [if_neg h2, Memory.get, Memory.get, hrest]
        by_cases hk : k' = k
        · rw [if_neg (by omega), if_pos hk, if_pos hk]
        · rw [if_neg hk, if_neg hk]

theorem Memory.put_wf {lo k : Nat} {v : Byte} {m : Memory} (h : Memory.wfFrom lo m = true) (hlo : lo ≤ k)
    (hk : k < 0x8000) : Memory.wfFrom lo (Memory.put k v m) = true := by
  induction m generalizing lo with
  | nil =>
    rw [Memory.put]
    split
    · rfl
    · next hv => exact Memory.wfFrom_cons.2 ⟨hlo, hk, hv, rfl⟩
  | cons c rest ih =>
    obtain ⟨k0, v0⟩ := c
    have h' := Memory.wfFrom_cons.1 h
    simp only [Memory.put]
    split_ifs with h1 hv h2 hv
    · exact h
    · exact Memory.wfFrom_cons.2 ⟨hlo, hk, hv, Memory.wfFrom_cons.2 ⟨by omega, h'.2⟩⟩
    · exact Memory.wfFrom_mono h'.2.2.2 (by omega)
    · exact Memory.wfFrom_cons.2 ⟨hlo, hk, hv, by subst h2; exact h'.2.2.2⟩
    · exact Memory.wfFrom_cons.2 ⟨h'.1, h'.2.1, h'.2.2.1, ih h'.2.2.2 (by omega)⟩

/-- Two canonical memories with the same contents are the same data. -/
theorem Memory.wfFrom_ext {lo : Nat} {m m' : Memory} (h : Memory.wfFrom lo m = true) (h' : Memory.wfFrom lo m' = true)
    (e : ∀ k, Memory.get k m = Memory.get k m') : m = m' := by
  induction m generalizing lo m' with
  | nil =>
    cases m' with
    | nil => rfl
    | cons c' rest' =>
      obtain ⟨k', v'⟩ := c'
      have h2 := Memory.wfFrom_cons.1 h'
      have := e k'
      simp [Memory.get] at this
      exact absurd this.symm h2.2.2.1
  | cons c rest ih =>
    obtain ⟨k, v⟩ := c
    have h1 := Memory.wfFrom_cons.1 h
    cases m' with
    | nil =>
      have := e k
      simp [Memory.get] at this
      exact absurd this h1.2.2.1
    | cons c' rest' =>
      obtain ⟨k', v'⟩ := c'
      have h2 := Memory.wfFrom_cons.1 h'
      have hkk : k = k' := by
        rcases Nat.lt_trichotomy k k' with hlt | heq | hgt
        · have := e k
          rw [Memory.get, if_pos rfl, Memory.get, if_neg (by omega),
            Memory.get_below h2.2.2.2 (by omega)] at this
          exact absurd this h1.2.2.1
        · exact heq
        · have := e k'
          rw [Memory.get, if_neg (by omega), Memory.get, if_pos rfl,
            Memory.get_below h1.2.2.2 (by omega)] at this
          exact absurd this.symm h2.2.2.1
      subst hkk
      have hv : v = v' := by simpa [Memory.get] using e k
      subst hv
      have hr : rest = rest' := by
        refine ih h1.2.2.2 h2.2.2.2 fun j => ?_
        by_cases hj : j = k
        · subst hj
          rw [Memory.get_below h1.2.2.2 (by omega), Memory.get_below h2.2.2.2 (by omega)]
        · have := e j
          rwa [Memory.get, if_neg hj, Memory.get, if_neg hj] at this
      rw [hr]

/-! The same over 15-bit addresses. -/

theorem Memory.wf_nil : Memory.wf [] = true := rfl

theorem Memory.write_wf {m : Memory} (h : Memory.wf m = true) (a : Addr) (v : Byte) :
    Memory.wf (Memory.write m a v) = true :=
  Memory.put_wf h (Nat.zero_le _) a.isLt

theorem Memory.read_write {m : Memory} (h : Memory.wf m = true) (a b : Addr) (v : Byte) :
    Memory.read (Memory.write m a v) b = if b = a then v else Memory.read m b := by
  rw [Memory.read, Memory.write, Memory.get_put h]
  simp [BitVec.toNat_inj, Memory.read]

theorem Memory.read_write_same {m : Memory} (h : Memory.wf m = true) (a : Addr) (v : Byte) :
    Memory.read (Memory.write m a v) a = v := by
  rw [Memory.read_write h, if_pos rfl]

theorem Memory.read_write_other {m : Memory} (h : Memory.wf m = true) {a b : Addr} (hb : b ≠ a) (v : Byte) :
    Memory.read (Memory.write m a v) b = Memory.read m b := by
  rw [Memory.read_write h, if_neg hb]

/-- A key outside the address space is listed nowhere. -/
theorem Memory.get_above {lo k : Nat} {m : Memory} (h : Memory.wfFrom lo m = true) (hk : 0x8000 ≤ k) :
    Memory.get k m = Memory.unlisted := by
  induction m generalizing lo with
  | nil => rfl
  | cons c rest ih =>
    obtain ⟨k', v⟩ := c
    rw [Memory.wfFrom_cons] at h
    rw [Memory.get, if_neg (by omega)]
    exact ih h.2.2.2

/-- Canonical memories that read the same at every address are equal. -/
theorem Memory.ext_read {m m' : Memory} (h : Memory.wf m = true) (h' : Memory.wf m' = true)
    (e : ∀ a, Memory.read m a = Memory.read m' a) : m = m' := by
  refine Memory.wfFrom_ext h h' fun k => ?_
  by_cases hk : k < 0x8000
  · have := e (BitVec.ofNat 15 k)
    rwa [Memory.read, Memory.read, BitVec.toNat_ofNat, Nat.mod_eq_of_lt (by simpa using hk)] at this
  · rw [Memory.get_above h (by omega), Memory.get_above h' (by omega)]

theorem Memory.foldl_write_wf (cells : List Host.Cell) (m : Memory) (h : Memory.wf m = true) :
    Memory.wf (cells.foldl (fun m c => Memory.write m (BitVec.ofNat 15 c.1) c.2) m) = true := by
  induction cells generalizing m with
  | nil => exact h
  | cons c rest ih => exact ih _ (Memory.write_wf h _ _)

theorem Memory.ofWrites_wf (cells : List Host.Cell) : Memory.wf (Memory.ofWrites cells) = true :=
  Memory.foldl_write_wf cells [] rfl

/-- Every device leaves a canonical memory. -/
theorem deviceStore_wf (d : Device) {m : Memory} (h : Memory.wf m = true) (a : Addr) (v : Byte) :
    Memory.wf (deviceStore d m a v) = true := by
  cases d with
  | ideal => exact Memory.write_wf h _ _
  | stuck0 c => exact Memory.write_wf h _ _
  | couple w x =>
    simp only [deviceStore]
    split
    · exact Memory.write_wf (Memory.write_wf h _ _) _ _
    · exact Memory.write_wf h _ _
  | alias14 => exact Memory.write_wf h _ _
  | other id => exact Memory.ofWrites_wf _

theorem committed_wf {s : State} (h : Memory.wf s.extMem = true) (ad : Wires 8) :
    Memory.wf (committed ad s) = true := by
  unfold committed
  split
  · exact deviceStore_wf _ h _ _
  · exact Memory.write_wf h _ _

theorem memAfter_wf {s : State} (h : Memory.wf s.extMem = true) (before after : Pins) :
    Memory.wf (memAfter before after s) = true := by
  unfold memAfter
  split
  · exact h
  · split
    · exact committed_wf h _
    · exact h

theorem memAtReset_wf {s : State} (h : Memory.wf s.extMem = true) : Memory.wf (memAtReset s) = true := by
  unfold memAtReset
  split
  · exact Memory.write_wf h _ _
  · exact h

theorem targetTurn_wf {s : State} (h : Memory.wf s.extMem = true) : Memory.wf (targetTurn s).extMem = true := by
  unfold targetTurn
  split
  · exact h
  · split
    · exact Memory.ofWrites_wf _
    · exact h

/-- The memory State.reset holds is canonical. -/
theorem reset_memory_wf : Memory.wf State.reset.extMem = true := rfl

end Sys2Proof.Machine
end

