-- ==== Sys2Proof/Laws/Ops.lean ====
section
/-! SUPPORT. Laws/Ops.lean: the environment's reaction at an edge, and what one entry, a sequence of entries, and a
command can do. -/

namespace Sys2Proof.Machine

theorem runActs_nil (s : State) : runActs [] s = s := rfl

theorem runActs_cons (a : Act) (acts : List Act) (s : State) : runActs (a :: acts) s = runActs acts (doAct a s) := rfl

theorem runActs_append (acts acts' : List Act) (s : State) :
    runActs (acts ++ acts') s = runActs acts' (runActs acts s) := by
  induction acts generalizing s with
  | nil => rfl
  | cons a rest ih => exact ih _

/-- An invariant of single entries is one of sequences. -/
theorem runActs_induction {P : State → Prop} (h : ∀ a s, P s → P (doAct a s)) (acts : List Act) (s : State)
    (hs : P s) : P (runActs acts s) := by
  induction acts generalizing s with
  | nil => exact hs
  | cons a rest ih => exact ih _ (h a s hs)

/-! The environment's reaction at an edge (R58, R59). -/

/-- A control line the host does not move has the same level before and after (log 15). -/
theorem ctrlWire_of_lineOf_eq {dir dir' : Role} {level level' : Bool} (h : lineOf dir level = lineOf dir' level')
    (drive : Option Bool) (s : State) : ctrlWire dir level drive s = ctrlWire dir' level' drive s := by
  have same : hostDrives dir level = hostDrives dir' level' := by
    cases dir <;> cases dir' <;> cases level <;> cases level' <;> first | rfl | exact nomatch h
  rw [ctrlWire, ctrlWire, same]

/-- At a falling edge of ALE the latch captures the address wires (R58). -/
theorem latchAfter_edge {before after : Pins} {s : State} (h : aleWire before s = .high) (h' : aleWire after s = .low) :
    latchAfter before after s =
      joinAddr ((haWires after s).taken (Config.freeCaptureHA s.drawCount))
        ((adWires after s).taken (Config.freeCaptureAD s.drawCount)) := by
  have moved : before.aleLine ≠ after.aleLine := fun same =>
    nomatch h'.symm.trans ((ctrlWire_of_lineOf_eq same (Config.targetAle s.drawCount) s).symm.trans h)
  simp only [latchAfter, if_neg moved, h, h']

/-- At a rising edge of /WR the memory takes what is on AD (R59). -/
theorem memAfter_edge {before after : Pins} {s : State} (h : wrWire before s = .low) (h' : wrWire after s = .high) :
    memAfter before after s = committed (adWires after s) s := by
  have moved : before.wrLine ≠ after.wrLine := fun same =>
    nomatch h'.symm.trans ((ctrlWire_of_lineOf_eq same (Config.targetWr s.drawCount) s).symm.trans h)
  simp only [memAfter, if_neg moved, h, h']

/-! No entry of a sequence touches the configuration, the fault record, BUSY, BOOT_PC or the inputs. -/

@[simp] theorem doAct_cfg (a : Act) (s : State) : (doAct a s).cfg = s.cfg := by
  rcases a with _ | _ | _ | _ | _ | _ | r <;> first | rfl | (cases r <;> rfl)

@[simp] theorem doAct_busy (a : Act) (s : State) : (doAct a s).busy = s.busy := by
  rcases a with _ | _ | _ | _ | _ | _ | r <;> first | rfl | (cases r <;> rfl)

@[simp] theorem doAct_fault (a : Act) (s : State) : (doAct a s).fault = s.fault := by
  rcases a with _ | _ | _ | _ | _ | _ | r <;> first | rfl | (cases r <;> rfl)

@[simp] theorem doAct_faultCause (a : Act) (s : State) : (doAct a s).faultCause = s.faultCause := by
  rcases a with _ | _ | _ | _ | _ | _ | r <;> first | rfl | (cases r <;> rfl)

@[simp] theorem doAct_faultCmd (a : Act) (s : State) : (doAct a s).faultCmd = s.faultCmd := by
  rcases a with _ | _ | _ | _ | _ | _ | r <;> first | rfl | (cases r <;> rfl)

@[simp] theorem doAct_bootPc (a : Act) (s : State) : (doAct a s).bootPc = s.bootPc := by
  rcases a with _ | _ | _ | _ | _ | _ | r <;> first | rfl | (cases r <;> rfl)

@[simp] theorem doAct_issuer (a : Act) (s : State) : (doAct a s).issuer = s.issuer := by
  rcases a with _ | _ | _ | _ | _ | _ | r <;> first | rfl | (cases r <;> rfl)

@[simp] theorem doAct_hostReset (a : Act) (s : State) : (doAct a s).hostReset = s.hostReset := by
  rcases a with _ | _ | _ | _ | _ | _ | r <;> first | rfl | (cases r <;> rfl)

@[simp] theorem runActs_cfg (acts : List Act) (s : State) : (runActs acts s).cfg = s.cfg :=
  runActs_induction (P := fun t => t.cfg = s.cfg) (fun a t h => (doAct_cfg a t).trans h) acts s rfl

@[simp] theorem runActs_busy (acts : List Act) (s : State) : (runActs acts s).busy = s.busy :=
  runActs_induction (P := fun t => t.busy = s.busy) (fun a t h => (doAct_busy a t).trans h) acts s rfl

@[simp] theorem runActs_fault (acts : List Act) (s : State) : (runActs acts s).fault = s.fault :=
  runActs_induction (P := fun t => t.fault = s.fault) (fun a t h => (doAct_fault a t).trans h) acts s rfl

@[simp] theorem runActs_faultCause (acts : List Act) (s : State) : (runActs acts s).faultCause = s.faultCause :=
  runActs_induction (P := fun t => t.faultCause = s.faultCause) (fun a t h => (doAct_faultCause a t).trans h) acts s rfl

@[simp] theorem runActs_faultCmd (acts : List Act) (s : State) : (runActs acts s).faultCmd = s.faultCmd :=
  runActs_induction (P := fun t => t.faultCmd = s.faultCmd) (fun a t h => (doAct_faultCmd a t).trans h) acts s rfl

@[simp] theorem runActs_bootPc (acts : List Act) (s : State) : (runActs acts s).bootPc = s.bootPc :=
  runActs_induction (P := fun t => t.bootPc = s.bootPc) (fun a t h => (doAct_bootPc a t).trans h) acts s rfl

@[simp] theorem runActs_issuer (acts : List Act) (s : State) : (runActs acts s).issuer = s.issuer :=
  runActs_induction (P := fun t => t.issuer = s.issuer) (fun a t h => (doAct_issuer a t).trans h) acts s rfl

@[simp] theorem runActs_hostReset (acts : List Act) (s : State) : (runActs acts s).hostReset = s.hostReset :=
  runActs_induction (P := fun t => t.hostReset = s.hostReset) (fun a t h => (doAct_hostReset a t).trans h) acts s rfl

/-- Every entry keeps the memory's canonical form. -/
theorem doAct_wf (a : Act) (s : State) (h : Memory.wf s.extMem = true) : Memory.wf (doAct a s).extMem = true := by
  rcases a with v | ⟨g, r⟩ | ⟨l, b⟩ | _ | _ | e | r
  · exact memAfter_wf h _ _
  · exact memAfter_wf h _ _
  · exact memAfter_wf h _ _
  · exact memAfter_wf h _ _
  · exact memAfter_wf h _ _
  · exact h
  · cases r <;> exact h

theorem runActs_wf (acts : List Act) (s : State) (h : Memory.wf s.extMem = true) :
    Memory.wf (runActs acts s).extMem = true :=
  runActs_induction (P := fun t => Memory.wf t.extMem = true) doAct_wf acts s h

/-- A pin step records one snapshot, another entry none (R74, R80). -/
theorem doAct_traceRev (a : Act) (s : State) :
    (doAct a s).traceRev = if a.isPinStep then ⟨(doAct a s).pins, adWires (doAct a s).pins s⟩ :: s.traceRev
      else s.traceRev := by
  rcases a with _ | _ | _ | _ | _ | _ | r <;> first | rfl | (cases r <;> rfl)

/-- A sequence records as many snapshots as it has pin steps (R136). -/
theorem runActs_trace_length (acts : List Act) (s : State) :
    (runActs acts s).traceRev.length = s.traceRev.length + pinSteps acts := by
  induction acts generalizing s with
  | nil => rfl
  | cons a rest ih =>
    rw [runActs_cons, ih, doAct_traceRev, pinSteps, pinSteps, List.countP_cons]
    split
    · simp_all
      omega
    · simp_all

/-- PIN_TRACE only grows (R45). -/
theorem runActs_trace_grows (acts : List Act) (s : State) : ∃ new, (runActs acts s).traceRev = new ++ s.traceRev := by
  induction acts generalizing s with
  | nil => exact ⟨[], rfl⟩
  | cons a rest ih =>
    obtain ⟨new, h⟩ := ih (doAct a s)
    rw [runActs_cons, h, doAct_traceRev]
    split
    · exact ⟨new ++ [⟨(doAct a s).pins, adWires (doAct a s).pins s⟩], by simp⟩
    · exact ⟨new, rfl⟩

/-! Commands. -/

/-- Every command answers a next state, `runCommand` of its own sequence. -/
theorem exec_eq_runCommand (i : Instr) (s : State) : exec i s = .next (runCommand i (commandActs s.cfg i) s) := by
  cases i <;> rfl

/-- A command that passes its checks (R99). -/
theorem runCommand_passed {i : Instr} {acts : List Act} {s : State} (h : check i s = .noFault) :
    runCommand i acts s = setBusy false (advanceBoot (releaseWork (runActs acts (setBusy true s)))) := if_pos h

/-- A command that a check turns away (R108). -/
theorem runCommand_faulted {i : Instr} {acts : List Act} {s : State} (h : check i s ≠ .noFault) :
    runCommand i acts s = faulted (check i s) i s := if_neg h

/-- In HOST_DRIVING only SELFTEST, WRITE and READ have a check left (R107). -/
theorem check_hostDriving {s : State} (h : s.phase = .hostDriving) (i : Instr) :
    check i s = match i with
      | .latch _ => .noFault
      | .write _ => if s.writeArmed then .noFault else .writeNotArmed
      | .read => if s.addrValid then .noFault else .readNoAddress
      | .selftest _ len _ => if 0x8000 < len.toNat then .badLength else .noFault
      | .program => .noFault
      | .verify => .noFault
      | .handoff => .noFault := by
  cases i <;> exact if_neg (not_not_intro h)

/-- Outside HOST_DRIVING every command is turned away (R107). -/
theorem check_afterHandoff {s : State} (h : s.phase ≠ .hostDriving) (i : Instr) : check i s = .afterHandoff :=
  if_pos h

/-- What observation sees of a completed command. -/
theorem observed_completed (s : State) :
    (setBusy false (advanceBoot (releaseWork s))).observed
      = { s.observed with busy := false, bootPc := bootPcAfter s } := by
  unfold advanceBoot bootPcAfter State.observed setBusy releaseWork
  cases s.cfg.cmdSource <;> rfl

end Sys2Proof.Machine
end

