-- ==== Sys2Proof/Laws/Primitives.lean ====
section
/-! SUPPORT. Laws/Primitives.lean: what LATCH, WRITE and READ leave, run from a bus at rest (41_bus_driver.md R81 to
R84). -/

namespace Sys2Proof.Machine

/-- The bits of an address, put on the pins and captured from them, are the address (R49, R58). -/
theorem joinAddr_split (a : Addr) : joinAddr (highPins (addrTop a) (addrMid a)) (addrLow a) = a := by
  unfold joinAddr highPins addrTop addrMid addrLow
  ext i h
  simp only [BitVec.getElem_append, BitVec.getElem_extractLsb']
  rcases Nat.lt_or_ge i 8 with h8 | h8
  · simp [h8, BitVec.getLsbD_eq_getElem h]
  · rcases Nat.lt_or_ge i 14 with h14 | h14
    · have e : 8 + (i - 8) = i := by omega
      simp [show ¬ i < 8 by omega, show i - 8 < 6 by omega, e, BitVec.getLsbD_eq_getElem h]
    · have e : i = 14 := by omega
      subst e
      simp

/-- The state a LATCH leaves (R81). -/
def latchedState (a : Addr) (s : State) : State :=
  { s with
    pins := { s.pins.withAddr a with haDir := .driving }
    extLatch := a
    latchedAddr := a
    addrValid := true
    writeArmed := true
    traceRev := (latchTrace a s.pins).reverse ++ s.traceRev
    drawCount := s.drawCount + 8 }

/-- The state a WRITE leaves (R82). -/
def writtenState (v : Byte) (s : State) : State :=
  { s with
    pins := { s.pins with adOut := v }
    extMem := deviceStore s.cfg.dev s.extMem s.extLatch v
    writeArmed := false
    traceRev := (writeTrace v s.pins).reverse ++ s.traceRev
    drawCount := s.drawCount + 5 }

/-- The byte a READ gets: the device's where the settle time suffices, else a free value (R60, R79, R83). -/
def readByte (s : State) : Byte :=
  if s.cfg.settleOk then deviceResp s.cfg.dev s.extMem s.extLatch else Config.freeSample (s.drawCount + 2)

/-- The state a READ leaves (R83). -/
def readState (s : State) : State :=
  { s with
    sample := readByte s
    lastRead := readByte s
    writeArmed := false
    traceRev := (readTrace (deviceResp s.cfg.dev s.extMem s.extLatch) s.pins).reverse ++ s.traceRev
    drawCount := s.drawCount + 4 }

theorem runActs_latchActs {s : State} (h : BusRest s) (a : Addr) : runActs (latchActs a) s = latchedState a s := by
  have captured : runActs (latchActs a) s
      = { latchedState a s with
        extLatch := joinAddr
          ((Wires.level (highPins (addrTop a) (addrMid a))).taken (Config.freeCaptureHA (s.drawCount + 6)))
          ((Wires.level (addrLow a)).taken (Config.freeCaptureAD (s.drawCount + 6))) } := by
    obtain ⟨cfg, ⟨adOut, adDir, ahOut, a14Out, haDir, aleOut, wrNOut, rdNOut, resetNOut, ctrlDir, rstDir⟩⟩ := s
    obtain ⟨h1, h2, h3, h4, h5, h6, h7, h8, h9⟩ := h
    simp only at h1 h2 h3 h4 h5 h6 h7 h8 h9
    subst h1 h2 h3 h4 h5 h6 h7 h8 h9
    rfl
  rw [captured, Wires.taken_level, Wires.taken_level, joinAddr_split]
  rfl

theorem runActs_writeActs {s : State} (h : BusRest s) (v : Byte) : runActs (writeActs v) s = writtenState v s := by
  have stored : runActs (writeActs v) s = { writtenState v s with
      extMem := committed (.level v) { s with drawCount := s.drawCount + 3 } } := by
    obtain ⟨cfg, ⟨adOut, adDir, ahOut, a14Out, haDir, aleOut, wrNOut, rdNOut, resetNOut, ctrlDir, rstDir⟩⟩ := s
    obtain ⟨h1, h2, h3, h4, h5, h6, h7, h8, h9⟩ := h
    simp only at h1 h2 h3 h4 h5 h6 h7 h8 h9
    subst h1 h2 h3 h4 h5 h6 h7 h8 h9
    rfl
  rw [stored, committed_level]
  rfl

theorem runActs_readActs {s : State} (h : BusRest s) : runActs readActs s = readState s := by
  obtain ⟨⟨image, stStart, stLen, stStrategy, cmdSource, handoffCtrl, tSettle, settleOk, dev⟩,
    ⟨adOut, adDir, ahOut, a14Out, haDir, aleOut, wrNOut, rdNOut, resetNOut, ctrlDir, rstDir⟩⟩ := s
  obtain ⟨h1, h2, h3, h4, h5, h6, h7, h8, h9⟩ := h
  simp only at h1 h2 h3 h4 h5 h6 h7 h8 h9
  subst h1 h2 h3 h4 h5 h6 h7 h8 h9
  cases settleOk <;> rfl

/-! The bus is at rest again, the address record coherent. -/

theorem latchedState_rest {s : State} (h : BusRest s) (a : Addr) : BusRest (latchedState a s) :=
  ⟨h.adIdle, h.aleLow, h.wrHigh, h.rdHigh, h.resetLow, h.ctrlDriven, h.rstDriven, h.held, h.unsettled⟩

theorem writtenState_rest {s : State} (h : BusRest s) (v : Byte) : BusRest (writtenState v s) :=
  ⟨h.adIdle, h.aleLow, h.wrHigh, h.rdHigh, h.resetLow, h.ctrlDriven, h.rstDriven, h.held, h.unsettled⟩

theorem readState_rest {s : State} (h : BusRest s) : BusRest (readState s) :=
  ⟨h.adIdle, h.aleLow, h.wrHigh, h.rdHigh, h.resetLow, h.ctrlDriven, h.rstDriven, h.held, h.unsettled⟩

theorem latchedState_coherent (s : State) (a : Addr) : AddrCoherent (latchedState a s) :=
  ⟨by simp [latchedState], fun _ => rfl, fun _ => ⟨rfl, rfl⟩, fun _ => rfl⟩

theorem writtenState_coherent {s : State} (h : AddrCoherent s) (v : Byte) : AddrCoherent (writtenState v s) :=
  ⟨h.haDriven, h.latchIs, h.highPins, fun e => by simp [writtenState] at e⟩

theorem readState_coherent {s : State} (h : AddrCoherent s) : AddrCoherent (readState s) :=
  ⟨h.haDriven, h.latchIs, h.highPins, fun e => by simp [readState] at e⟩

/-- BUSY is no part of the bus. -/
theorem setBusy_rest {s : State} (h : BusRest s) (b : Bool) : BusRest (setBusy b s) :=
  ⟨h.adIdle, h.aleLow, h.wrHigh, h.rdHigh, h.resetLow, h.ctrlDriven, h.rstDriven, h.held, h.unsettled⟩

/-- A register write is no part of the bus. -/
theorem regWrite_rest {s : State} (h : BusRest s) (r : RegWrite) : BusRest (r.apply s) := by
  cases r <;> exact ⟨h.adIdle, h.aleLow, h.wrHigh, h.rdHigh, h.resetLow, h.ctrlDriven, h.rstDriven, h.held, h.unsettled⟩

/-- The reset sequence leaves R46's column "after INIT" (R121), whatever state of the target it found. -/
theorem runInit_rest (s : State) (h : s.pins = Pins.atReset) (hs : s.rdSettled = false) : BusRest (runInit s) := by
  obtain ⟨cfg, pins⟩ := s
  simp only at h hs
  subst h hs
  exact ⟨rfl, rfl, rfl, rfl, rfl, rfl, rfl, rfl, rfl⟩

/-- The reset sequence touches neither the memory nor the address latch (R46, R122), whatever state of the target it
found. -/
theorem runInit_env (s : State) (h : s.pins = Pins.atReset) :
    (runInit s).extMem = s.extMem ∧ (runInit s).extLatch = s.extLatch := by
  obtain ⟨cfg, pins⟩ := s
  simp only at h
  subst h
  exact ⟨rfl, rfl⟩

end Sys2Proof.Machine
end

