-- ==== Sys2Proof/Laws/Procedures.lean ====
section
/-! SUPPORT. Laws/Procedures.lean: the sequences of SELFTEST, PROGRAM and VERIFY against the memory device alone
(42_memory_procedures.md R86 to R89). -/

namespace Sys2Proof.Machine

/-- `t` arises from `s` by bus primitives and loop register writes: the bus is at rest again, the address record still
coherent, and outside the bus only ERR_TALLY may differ. -/
structure BusRun (s t : State) : Prop where
  rest     : BusRest t
  coherent : AddrCoherent s → AddrCoherent t
  outside  : t.outsideBus = { s.outsideBus with errTally := t.errTally }

theorem BusRun.refl {s : State} (h : BusRest s) : BusRun s s := ⟨h, id, rfl⟩

theorem BusRun.trans {s t u : State} (h : BusRun s t) (h' : BusRun t u) : BusRun s u :=
  ⟨h'.rest, fun c => h'.coherent (h.coherent c), by rw [h'.outside, h.outside]⟩

theorem BusRun.cfg_eq {s t : State} (h : BusRun s t) : t.cfg = s.cfg := by
  have := congrArg State.cfg h.outside
  exact this

theorem BusRun.latch {s : State} (h : BusRest s) (a : Addr) : BusRun s (latchedState a s) :=
  ⟨latchedState_rest h a, fun _ => latchedState_coherent s a, rfl⟩

theorem BusRun.write {s : State} (h : BusRest s) (v : Byte) : BusRun s (writtenState v s) :=
  ⟨writtenState_rest h v, fun c => writtenState_coherent c v, rfl⟩

theorem BusRun.read {s : State} (h : BusRest s) : BusRun s (readState s) :=
  ⟨readState_rest h, readState_coherent, rfl⟩

theorem BusRun.addrCnt {s : State} (h : BusRest s) (k : Nat) : BusRun s (doAct (.reg (.addrCnt k)) s) :=
  ⟨regWrite_rest h (.addrCnt k), fun c => ⟨c.haDriven, c.latchIs, c.highPins, c.armedIs⟩, rfl⟩

theorem BusRun.patIdx {s : State} (h : BusRest s) (j : Nat) : BusRun s (doAct (.reg (.patIdx j)) s) :=
  ⟨regWrite_rest h (.patIdx j), fun c => ⟨c.haDriven, c.latchIs, c.highPins, c.armedIs⟩, rfl⟩

theorem BusRun.tallyCompare {s : State} (h : BusRest s) (p : Byte) : BusRun s (doAct (.reg (.tallyCompare p)) s) :=
  ⟨regWrite_rest h (.tallyCompare p), fun c => ⟨c.haDriven, c.latchIs, c.highPins, c.armedIs⟩, rfl⟩

theorem BusRun.tallyClear {s : State} (h : BusRest s) : BusRun s (doAct (.reg .tallyClear) s) :=
  ⟨regWrite_rest h .tallyClear, fun c => ⟨c.haDriven, c.latchIs, c.highPins, c.armedIs⟩, rfl⟩

theorem BusRun.emit {s : State} (h : BusRest s) (e : EmitOp) : BusRun s (doAct (.emit e) s) :=
  ⟨⟨h.adIdle, h.aleLow, h.wrHigh, h.rdHigh, h.resetLow, h.ctrlDriven, h.rstDriven, h.held, h.unsettled⟩,
    fun c => ⟨c.haDriven, c.latchIs, c.highPins, c.armedIs⟩, rfl⟩

/-- A state of a procedure's run from `s₀`, with the device's memory and, where the settle time suffices, the
mismatches so far. -/
structure Tracks (s₀ s : State) (mt : Tallied) : Prop where
  run   : BusRun s₀ s
  mem   : s.extMem = mt.1
  tally : s₀.cfg.settleOk = true → s.errTally = BitVec.ofNat 32 mt.2

/-- A loop over a list follows its fold. -/
theorem tracks_flatMap {α : Type} {s₀ : State} (body : α → List Act) (g : Tallied → α → Tallied) (l : List α)
    (h : ∀ x ∈ l, ∀ s mt, Tracks s₀ s mt → Tracks s₀ (runActs (body x) s) (g mt x)) {s : State} {mt : Tallied}
    (hs : Tracks s₀ s mt) : Tracks s₀ (runActs (l.flatMap body) s) (l.foldl g mt) := by
  induction l generalizing s mt with
  | nil => exact hs
  | cons x rest ih =>
    rw [List.flatMap_cons, runActs_append, List.foldl_cons]
    exact ih (fun y hy => h y (List.mem_cons_of_mem _ hy)) (h x List.mem_cons_self s mt hs)

theorem tracks_latch {s₀ s : State} {mt : Tallied} (h : Tracks s₀ s mt) (a : Addr) :
    Tracks s₀ (runActs (latchActs a) s) mt ∧ (runActs (latchActs a) s).extLatch = a := by
  rw [runActs_latchActs h.run.rest]
  exact ⟨⟨h.run.trans (.latch h.run.rest a), h.mem, h.tally⟩, rfl⟩

theorem tracks_write {s₀ s : State} {mt : Tallied} (h : Tracks s₀ s mt) (v : Byte) :
    Tracks s₀ (runActs (writeActs v) s) (refStore s₀.cfg.dev s.extLatch v mt)
      ∧ (runActs (writeActs v) s).extLatch = s.extLatch := by
  rw [runActs_writeActs h.run.rest]
  refine ⟨⟨h.run.trans (.write h.run.rest v), ?_, h.tally⟩, rfl⟩
  rw [writtenState, refStore, h.run.cfg_eq, h.mem]

theorem tracks_read {s₀ s : State} {mt : Tallied} (h : Tracks s₀ s mt) :
    Tracks s₀ (runActs readActs s) mt ∧ (runActs readActs s).extLatch = s.extLatch
      ∧ (s₀.cfg.settleOk = true → (runActs readActs s).sample = deviceResp s₀.cfg.dev mt.1 s.extLatch) := by
  rw [runActs_readActs h.run.rest]
  refine ⟨⟨h.run.trans (.read h.run.rest), h.mem, h.tally⟩, rfl, fun ok => ?_⟩
  rw [readState, readByte, h.run.cfg_eq, if_pos ok, h.mem]

theorem tracks_compare {s₀ s : State} {mt : Tallied} (h : Tracks s₀ s mt) {a : Addr} (p : Byte)
    (hs : s₀.cfg.settleOk = true → s.sample = deviceResp s₀.cfg.dev mt.1 a) :
    Tracks s₀ (doAct (.reg (.tallyCompare p)) s) (refCompare s₀.cfg.dev a p mt) := by
  refine ⟨h.run.trans (.tallyCompare h.run.rest p), h.mem, fun ok => ?_⟩
  change tallyAfter s.errTally s.sample p = _
  rw [tallyAfter, refCompare, h.tally ok, hs ok]
  split
  · rw [BitVec.ofNat_add]
    rfl
  · rfl

theorem tracks_addrCnt {s₀ s : State} {mt : Tallied} (h : Tracks s₀ s mt) (k : Nat) :
    Tracks s₀ (doAct (.reg (.addrCnt k)) s) mt :=
  ⟨h.run.trans (.addrCnt h.run.rest k), h.mem, h.tally⟩

theorem tracks_patIdx {s₀ s : State} {mt : Tallied} (h : Tracks s₀ s mt) (j : Nat) :
    Tracks s₀ (doAct (.reg (.patIdx j)) s) mt :=
  ⟨h.run.trans (.patIdx h.run.rest j), h.mem, h.tally⟩

theorem tracks_emit {s₀ s : State} {mt : Tallied} (h : Tracks s₀ s mt) (e : EmitOp) :
    Tracks s₀ (doAct (.emit e) s) mt :=
  ⟨h.run.trans (.emit h.run.rest e), h.mem, h.tally⟩

/-- Strategy (a), one address and one pattern. -/
theorem tracks_testCell {s₀ s : State} {mt : Tallied} (a : Addr) (jp : Nat × Byte) (h : Tracks s₀ s mt) :
    Tracks s₀ (runActs (testCellActs a jp) s) (refCompare s₀.cfg.dev a jp.2 (refStore s₀.cfg.dev a jp.2 mt)) := by
  rw [testCellActs, runActs_cons, runActs_append, runActs_append, runActs_append]
  obtain ⟨h1, e1⟩ := tracks_latch (tracks_patIdx h jp.1) a
  obtain ⟨h2, e2⟩ := tracks_write h1 jp.2
  obtain ⟨h3, _, e3⟩ := tracks_read h2
  rw [e2, e1] at e3
  rw [e1] at h3
  exact tracks_compare h3 jp.2 e3

/-- Strategy (b), one write. -/
theorem tracks_fillCell {s₀ s : State} {mt : Tallied} (start : Addr) (p : Byte) (k : Nat) (h : Tracks s₀ s mt) :
    Tracks s₀ (runActs (fillCellActs start p k) s) (refStore s₀.cfg.dev (rangeAddr start k) p mt) := by
  rw [fillCellActs, runActs_cons, runActs_append]
  obtain ⟨h1, e1⟩ := tracks_latch (tracks_addrCnt h k) (rangeAddr start k)
  obtain ⟨h2, _⟩ := tracks_write h1 p
  rwa [e1] at h2

/-- Strategy (b), one read-back. -/
theorem tracks_readBack {s₀ s : State} {mt : Tallied} (start : Addr) (p : Byte) (k : Nat) (h : Tracks s₀ s mt) :
    Tracks s₀ (runActs (readBackActs start p k) s) (refCompare s₀.cfg.dev (rangeAddr start k) p mt) := by
  rw [readBackActs, runActs_cons, runActs_append, runActs_append]
  obtain ⟨h1, e1⟩ := tracks_latch (tracks_addrCnt h k) (rangeAddr start k)
  obtain ⟨h2, _, e2⟩ := tracks_read h1
  rw [e1] at e2
  exact tracks_compare h2 p e2

/-! What the last visit of a procedure leaves on the bus (R26, R27, R84). -/

/-- Bus primitives move no pin but the address and data latches and HA's role. -/
theorem BusRun.pins_agree {s x : State} (h : BusRun s x) (ad : Byte) (ah : BitVec 6) (a14 : Bool) (ha : Role) :
    { x.pins with adOut := ad, ahOut := ah, a14Out := a14, haDir := ha }
      = { s.pins with adOut := ad, ahOut := ah, a14Out := a14, haDir := ha } :=
  congrArg (fun u : State => { u.pins with adOut := ad, ahOut := ah, a14Out := a14, haDir := ha }) h.outside

theorem lastVisited_write {s x : State} (h : BusRun s x) (a : Addr) (v : Byte) :
    LastVisited a v s (runActs (latchActs a ++ writeActs v) x) := by
  rw [runActs_append, runActs_latchActs h.rest, runActs_writeActs (latchedState_rest h.rest a)]
  exact ⟨rfl, rfl, rfl, rfl, h.pins_agree v (addrMid a) (addrTop a) .driving⟩

/-- A READ moves no latch, so the visit before it is still the last. -/
theorem LastVisited.read {s x : State} {a : Addr} {ad : Byte} (h : LastVisited a ad s x) (r : BusRest x) :
    LastVisited a ad s (runActs readActs x) := by
  rw [runActs_readActs r]
  exact ⟨h.latched, h.valid, rfl, h.extLatch, h.pins⟩

theorem lastVisited_read {s x : State} (h : BusRun s x) (a : Addr) :
    LastVisited a (a.extractLsb' 0 8) s (runActs (latchActs a ++ readActs) x) := by
  rw [runActs_append, runActs_latchActs h.rest, runActs_readActs (latchedState_rest h.rest a)]
  exact ⟨rfl, rfl, rfl, rfl, h.pins_agree (addrLow a) (addrMid a) (addrTop a) .driving⟩

/-- With a settle time that suffices, a READ leaves in LAST_READ what the device gives at the latched address (R28). -/
theorem lastRead_read {x : State} (r : BusRest x) (ok : x.cfg.settleOk = true) :
    (runActs readActs x).lastRead = deviceResp x.cfg.dev x.extMem x.extLatch := by
  rw [runActs_readActs r, readState, readByte, if_pos ok]

theorem indexedPatterns_snd : indexedPatterns.map Prod.snd = refPatterns := rfl

/-- The address at index k, as R48 and R86 reduce it. -/
theorem rangeAddr_eq (start : Addr) (k : Nat) :
    rangeAddr start k = BitVec.ofNat 15 ((start.toNat + k) % 2 ^ 15) :=
  BitVec.eq_of_toNat_eq (by simp [rangeAddr])

theorem rangeAddrs_eq (start : Addr) (len : Nat) : rangeAddrs start len = (List.range len).map (rangeAddr start) :=
  List.map_congr_left fun k _ => (rangeAddr_eq start k).symm

/-- The whole of a self-test's transactions compute `refSweep` (R86). -/
theorem tracks_sweep {s₀ s : State} {m : Memory} (start : Addr) (len : Nat)
    (strat : Strategy) (h : Tracks s₀ s (m, 0)) :
    Tracks s₀ (runActs (sweepActs start len strat) s) (refSweep s₀.cfg.dev start len strat m) := by
  cases strat with
  | perAddress =>
    rw [sweepActs, refSweep, rangeAddrs_eq, List.foldl_map]
    refine tracks_flatMap _ _ _ (fun k _ t mt ht => ?_) h
    rw [testAddrActs, runActs_cons, ← indexedPatterns_snd, List.foldl_map]
    exact tracks_flatMap _ _ _ (fun jp _ u mu hu => tracks_testCell _ jp hu) (tracks_addrCnt ht k)
  | perPattern =>
    rw [sweepActs, refSweep, rangeAddrs_eq, ← indexedPatterns_snd, List.foldl_map]
    refine tracks_flatMap _ _ _ (fun jp _ t mt ht => ?_) h
    rw [testPatternActs, runActs_cons, runActs_append, List.foldl_map, List.foldl_map]
    exact tracks_flatMap _ _ _ (fun k _ u mu hu => tracks_readBack start jp.2 k hu)
      (tracks_flatMap _ _ _ (fun k _ u mu hu => tracks_fillCell start jp.2 k hu) (tracks_patIdx ht jp.1))

/-- The write pass at one index. -/
theorem tracks_programByte {s₀ s : State} {mt : Tallied} (ib : Nat × Byte) (h : Tracks s₀ s mt) :
    Tracks s₀ (runActs (programByteActs ib) s) (refStore s₀.cfg.dev (BitVec.ofNat 15 ib.1) ib.2 mt) := by
  rw [programByteActs, runActs_cons, runActs_append, runActs_append]
  obtain ⟨h1, e1⟩ := tracks_latch (tracks_addrCnt h ib.1) (BitVec.ofNat 15 ib.1)
  obtain ⟨h2, _⟩ := tracks_write h1 ib.2
  rw [e1] at h2
  exact tracks_emit h2 _

/-- The verify pass at one index. -/
theorem tracks_verifyByte {s₀ s : State} {mt : Tallied} (ib : Nat × Byte) (h : Tracks s₀ s mt) :
    Tracks s₀ (runActs (verifyByteActs ib) s) (refCompare s₀.cfg.dev (BitVec.ofNat 15 ib.1) ib.2 mt) := by
  rw [verifyByteActs, runActs_cons, runActs_append, runActs_append]
  obtain ⟨h1, e1⟩ := tracks_latch (tracks_addrCnt h ib.1) (BitVec.ofNat 15 ib.1)
  obtain ⟨h2, _, e2⟩ := tracks_read h1
  rw [e1] at e2
  exact tracks_emit (tracks_compare h2 ib.2 e2) _

end Sys2Proof.Machine
end

