-- ==== Sys2Proof/Laws/Hazards.lean ====
section
/-! SUPPORT. Laws/Hazards.lean: the primitives' snapshots against the hazards of 70_reset_and_hazards.md, and a
predicate every sequence of the procedures keeps. -/

namespace Sys2Proof.Machine

/-- The pins a bus at rest has (R19). -/
structure PinsRest (p : Pins) : Prop where
  adIdle     : p.adDir = .idle
  aleLow     : p.aleOut = false
  wrHigh     : p.wrNOut = true
  rdHigh     : p.rdNOut = true
  resetLow   : p.resetNOut = false
  ctrlDriven : p.ctrlDir = .driving
  rstDriven  : p.rstDir = .driving

theorem BusRest.pinsRest {s : State} (h : BusRest s) : PinsRest s.pins :=
  ⟨h.adIdle, h.aleLow, h.wrHigh, h.rdHigh, h.resetLow, h.ctrlDriven, h.rstDriven⟩

/-- Every snapshot of a LATCH is safe. -/
theorem latchTrace_safe {p : Pins} (h : PinsRest p) (a : Addr) : ∀ n ∈ latchTrace a p, n.Safe := by
  obtain ⟨adOut, adDir, ahOut, a14Out, haDir, aleOut, wrNOut, rdNOut, resetNOut, ctrlDir, rstDir⟩ := p
  obtain ⟨h1, h2, h3, h4, h5, h6, h7⟩ := h
  simp only at h1 h2 h3 h4 h5 h6 h7
  subst h1 h2 h3 h4 h5 h6 h7
  intro n hn
  simp only [latchTrace, List.mem_cons, List.not_mem_nil, or_false] at hn
  rcases hn with rfl | rfl | rfl | rfl | rfl | rfl | rfl | rfl <;>
    exact ⟨Nat.le_of_ble_eq_true rfl, by simp [Pins.withAddr, Pins.rdLine], by simp,
      by simp [Pins.withAddr, Pins.resetWire], fun _ => rfl⟩

/-- Every snapshot of a WRITE is safe. -/
theorem writeTrace_safe {p : Pins} (h : PinsRest p) (v : Byte) : ∀ n ∈ writeTrace v p, n.Safe := by
  obtain ⟨adOut, adDir, ahOut, a14Out, haDir, aleOut, wrNOut, rdNOut, resetNOut, ctrlDir, rstDir⟩ := p
  obtain ⟨h1, h2, h3, h4, h5, h6, h7⟩ := h
  simp only at h1 h2 h3 h4 h5 h6 h7
  subst h1 h2 h3 h4 h5 h6 h7
  intro n hn
  simp only [writeTrace, List.mem_cons, List.not_mem_nil, or_false] at hn
  rcases hn with rfl | rfl | rfl | rfl | rfl <;>
    exact ⟨Nat.le_of_ble_eq_true rfl, by simp [Pins.rdLine], by simp, by simp [Pins.resetWire], fun _ => rfl⟩

/-- Every snapshot of a READ is safe. -/
theorem readTrace_safe {p : Pins} (h : PinsRest p) (v : Byte) : ∀ n ∈ readTrace v p, n.Safe := by
  obtain ⟨adOut, adDir, ahOut, a14Out, haDir, aleOut, wrNOut, rdNOut, resetNOut, ctrlDir, rstDir⟩ := p
  obtain ⟨h1, h2, h3, h4, h5, h6, h7⟩ := h
  simp only at h1 h2 h3 h4 h5 h6 h7
  subst h1 h2 h3 h4 h5 h6 h7
  intro n hn
  simp only [readTrace, List.mem_cons, List.not_mem_nil, or_false] at hn
  rcases hn with rfl | rfl | rfl | rfl <;>
    exact ⟨Nat.le_of_ble_eq_true rfl, fun _ => rfl, by simp, by simp [Pins.resetWire], fun _ => rfl⟩

/-- A bus at rest with a coherent address record and a trace that shows no hazard, in HOST_DRIVING. -/
structure QuietBus (s : State) : Prop where
  phase    : s.phase = .hostDriving
  rest     : BusRest s
  coherent : AddrCoherent s
  safe     : ∀ n ∈ s.traceRev, n.Safe

theorem quiet_latch {s : State} (h : QuietBus s) (a : Addr) : QuietBus (runActs (latchActs a) s) := by
  rw [runActs_latchActs h.rest]
  refine ⟨h.phase, latchedState_rest h.rest a, latchedState_coherent s a, fun n hn => ?_⟩
  rcases List.mem_append.1 hn with hn | hn
  · exact latchTrace_safe h.rest.pinsRest a n (List.mem_reverse.1 hn)
  · exact h.safe n hn

theorem quiet_write {s : State} (h : QuietBus s) (v : Byte) : QuietBus (runActs (writeActs v) s) := by
  rw [runActs_writeActs h.rest]
  refine ⟨h.phase, writtenState_rest h.rest v, writtenState_coherent h.coherent v, fun n hn => ?_⟩
  rcases List.mem_append.1 hn with hn | hn
  · exact writeTrace_safe h.rest.pinsRest v n (List.mem_reverse.1 hn)
  · exact h.safe n hn

theorem quiet_read {s : State} (h : QuietBus s) : QuietBus (runActs readActs s) := by
  rw [runActs_readActs h.rest]
  refine ⟨h.phase, readState_rest h.rest, readState_coherent h.coherent, fun n hn => ?_⟩
  rcases List.mem_append.1 hn with hn | hn
  · exact readTrace_safe h.rest.pinsRest _ n (List.mem_reverse.1 hn)
  · exact h.safe n hn

theorem quiet_emit {s : State} (h : QuietBus s) (e : EmitOp) : QuietBus (doAct (.emit e) s) :=
  ⟨h.phase, (BusRun.emit h.rest e).rest, (BusRun.emit h.rest e).coherent h.coherent, h.safe⟩

/-- The register writes of the procedures' loops and ends. -/
def RegWrite.isBookkeeping : RegWrite → Bool
  | .latched _ => false
  | .disarmed => false
  | .readDone => false
  | .addrCnt _ => true
  | .patIdx _ => true
  | .tallyClear => true
  | .tallyCompare _ => true
  | .selftestDone _ => true
  | .programDone => true
  | .verifyDone => true
  | .phase _ => false

theorem quiet_reg {s : State} (h : QuietBus s) {r : RegWrite} (hr : r.isBookkeeping = true) :
    QuietBus (doAct (.reg r) s) := by
  refine ⟨?_, regWrite_rest h.rest r, ?_, ?_⟩ <;> cases r <;>
    first
    | exact absurd hr Bool.false_ne_true
    | exact h.phase
    | exact ⟨h.coherent.haDriven, h.coherent.latchIs, h.coherent.highPins, h.coherent.armedIs⟩
    | exact h.safe

/-- A loop keeps what its body keeps. -/
theorem runActs_flatMap_keeps {α : Type} {P : State → Prop} (body : α → List Act) (l : List α)
    (h : ∀ x ∈ l, ∀ s, P s → P (runActs (body x) s)) {s : State} (hs : P s) : P (runActs (l.flatMap body) s) := by
  induction l generalizing s with
  | nil => exact hs
  | cons x rest ih =>
    rw [List.flatMap_cons, runActs_append]
    exact ih (fun y hy => h y (List.mem_cons_of_mem _ hy)) (h x List.mem_cons_self s hs)

theorem quiet_testCell (a : Addr) (jp : Nat × Byte) {s : State} (h : QuietBus s) :
    QuietBus (runActs (testCellActs a jp) s) := by
  rw [testCellActs, runActs_cons, runActs_append, runActs_append, runActs_append]
  exact quiet_reg (quiet_read (quiet_write (quiet_latch (quiet_reg h (r := .patIdx jp.1) rfl) a) jp.2))
    (r := .tallyCompare jp.2) rfl

theorem quiet_fillCell (start : Addr) (p : Byte) (k : Nat) {s : State} (h : QuietBus s) :
    QuietBus (runActs (fillCellActs start p k) s) := by
  rw [fillCellActs, runActs_cons, runActs_append]
  exact quiet_write (quiet_latch (quiet_reg h (r := .addrCnt k) rfl) (rangeAddr start k)) p

theorem quiet_readBack (start : Addr) (p : Byte) (k : Nat) {s : State} (h : QuietBus s) :
    QuietBus (runActs (readBackActs start p k) s) := by
  rw [readBackActs, runActs_cons, runActs_append, runActs_append]
  exact quiet_reg (quiet_read (quiet_latch (quiet_reg h (r := .addrCnt k) rfl) (rangeAddr start k)))
    (r := .tallyCompare p) rfl

theorem quiet_programByte (ib : Nat × Byte) {s : State} (h : QuietBus s) :
    QuietBus (runActs (programByteActs ib) s) := by
  rw [programByteActs, runActs_cons, runActs_append, runActs_append]
  exact quiet_emit (quiet_write (quiet_latch (quiet_reg h (r := .addrCnt ib.1) rfl) (BitVec.ofNat 15 ib.1)) ib.2)
    (.progressWrite (BitVec.ofNat 15 ib.1) ib.2)

theorem quiet_verifyByte (ib : Nat × Byte) {s : State} (h : QuietBus s) :
    QuietBus (runActs (verifyByteActs ib) s) := by
  rw [verifyByteActs, runActs_cons, runActs_append, runActs_append]
  exact quiet_emit
    (quiet_reg (quiet_read (quiet_latch (quiet_reg h (r := .addrCnt ib.1) rfl) (BitVec.ofNat 15 ib.1)))
      (r := .tallyCompare ib.2) rfl)
    (.progressVerify (BitVec.ofNat 15 ib.1))

theorem quiet_sweep (start : Addr) (len : Nat) (strat : Strategy) {s : State} (h : QuietBus s) :
    QuietBus (runActs (sweepActs start len strat) s) := by
  cases strat with
  | perAddress =>
    refine runActs_flatMap_keeps _ _ (fun k _ t ht => ?_) h
    rw [testAddrActs, runActs_cons]
    exact runActs_flatMap_keeps _ _ (fun jp _ u hu => quiet_testCell _ jp hu) (quiet_reg ht (r := .addrCnt k) rfl)
  | perPattern =>
    refine runActs_flatMap_keeps _ _ (fun jp _ t ht => ?_) h
    rw [testPatternActs, runActs_cons, runActs_append]
    exact runActs_flatMap_keeps _ _ (fun k _ u hu => quiet_readBack start jp.2 k hu)
      (runActs_flatMap_keeps _ _ (fun k _ u hu => quiet_fillCell start jp.2 k hu)
        (quiet_reg ht (r := .patIdx jp.1) rfl))

/-- Every command but HANDOFF leaves the bus quiet. -/
theorem quiet_command {i : Instr} (hi : i ≠ .handoff) {s : State} (h : QuietBus s) :
    QuietBus (runActs (commandActs s.cfg i) s) := by
  cases i with
  | latch a => exact quiet_latch h a
  | write v => exact quiet_write h v
  | read => exact quiet_read h
  | selftest start len strat =>
    rw [commandActs, selftestActs, runActs_cons, runActs_append]
    exact quiet_emit
      (quiet_reg (quiet_sweep start len.toNat strat (quiet_reg h (r := .tallyClear) rfl)) (r := .selftestDone len) rfl)
      .stResult
  | program =>
    rw [commandActs, programActs, runActs_append]
    exact quiet_reg (runActs_flatMap_keeps _ _ (fun ib _ t ht => quiet_programByte ib ht) h) (r := .programDone) rfl
  | verify =>
    rw [commandActs, verifyActs, runActs_cons, runActs_append]
    exact quiet_emit
      (quiet_reg
        (runActs_flatMap_keeps _ _ (fun ib _ t ht => quiet_verifyByte ib ht) (quiet_reg h (r := .tallyClear) rfl))
        (r := .verifyDone) rfl)
      .vfResult
  | handoff => exact absurd rfl hi

/-- A sequence cut short shows no snapshot that the whole does not. -/
theorem runActs_take_trace (acts : List Act) (k : Nat) (s : State) :
    ∀ n ∈ (runActs (acts.take k) s).traceRev, n ∈ (runActs acts s).traceRev := by
  intro n hn
  obtain ⟨new, h⟩ := runActs_trace_grows (acts.drop k) (runActs (acts.take k) s)
  rw [← runActs_append, List.take_append_drop] at h
  rw [h]
  exact List.mem_append_right _ hn

end Sys2Proof.Machine
end

