-- ==== Sys2Proof/Laws/PerInstr.lean ====
section
/-! SUPPORT. Laws/PerInstr.lean: per command: its encoding carries its row's opcode and none of its row's reserved bits
(30_encoding.md R67, R69). -/

namespace Sys2Proof.Laws.EncodeMatchesRow

open Sys2Proof

/-- The encoding agrees with its row of the opcode map on the row's mask. -/
def Statement (i : Instr) : Prop := encode i &&& (rowOf i).mask = (rowOf i).value

theorem latch (addr : Addr) : Statement (.latch addr) := by
  unfold Statement rowOf encode placeField rowLatch
  ext i hi
  simp only [BitVec.getElem_and, BitVec.getElem_or, BitVec.getElem_shiftLeft, BitVec.getElem_setWidth]
  interval_cases i <;> simp

theorem write (data : Byte) : Statement (.write data) := by
  unfold Statement rowOf encode placeField rowWrite
  ext i hi
  simp only [BitVec.getElem_and, BitVec.getElem_or, BitVec.getElem_shiftLeft, BitVec.getElem_setWidth]
  interval_cases i <;> simp

theorem read : Statement .read := by unfold Statement; decide

theorem selftest (start : Addr) (len : BitVec 16) (strat : Strategy) : Statement (.selftest start len strat) := by
  unfold Statement rowOf encode placeField rowSelftest
  ext i hi
  simp only [BitVec.getElem_and, BitVec.getElem_or, BitVec.getElem_shiftLeft, BitVec.getElem_setWidth]
  interval_cases i <;> simp

theorem program : Statement .program := by unfold Statement; decide

theorem verify : Statement .verify := by unfold Statement; decide

theorem handoff : Statement .handoff := by unfold Statement; decide

end Sys2Proof.Laws.EncodeMatchesRow
end

