-- ==== Sys2Proof/Certificates/Slice0/Obligations.lean ====
section
/-! DEFINITION. Certificates/Slice0/Obligations.lean: the statements for the provers. Each docstring names the rule of
spec/ it formalises. A command's statement compares whole states through `State.observed`, which drops only the working
registers (unobservable at a command boundary, R33) and the model's own index of free values: what is not named in it
is unchanged. -/

open Sys2Proof Sys2Proof.Machine

/-! Encoding (30_encoding.md). -/

/-- Every command decodes from its encoding to itself, with every operand at every value (R67, R68, R70, R72). -/
def Obligations.DecodeEncodeAgree : Prop := ∀ i : Instr, decode (encode i) = .ok i

/-- A word that decodes to a command is that command's encoding: no other word spells it (R69, R70, R71). -/
def Obligations.EncodeDecodeAgree : Prop := ∀ (w : CmdWord) (i : Instr), decode w = .ok i → encode i = w

/-- R69: a word spells a command exactly when it agrees with the row's MATCH under the row's MASK; the rows differ in OP
and every MASK covers OP. -/
def Obligations.WordSpellsCommandByRow : Prop :=
  (∀ w : CmdWord,
    (w &&& 0xFFFF_FFFF_FFFF_8000 = 0x1000_0000_0000_0000 ↔ ∃ a, decode w = .ok (.latch a)) ∧
    (w &&& 0xFFFF_FFFF_FFFF_FF00 = 0x2000_0000_0000_0000 ↔ ∃ v, decode w = .ok (.write v)) ∧
    (w &&& 0xFFFF_FFFF_FFFF_FFFF = 0x3000_0000_0000_0000 ↔ decode w = .ok .read) ∧
    (w &&& 0xFFFE_0000_FFFF_8000 = 0x4000_0000_0000_0000 ↔ ∃ a n b, decode w = .ok (.selftest a n b)) ∧
    (w &&& 0xFFFF_FFFF_FFFF_FFFF = 0x5000_0000_0000_0000 ↔ decode w = .ok .program) ∧
    (w &&& 0xFFFF_FFFF_FFFF_FFFF = 0x6000_0000_0000_0000 ↔ decode w = .ok .verify) ∧
    (w &&& 0xFFFF_FFFF_FFFF_FFFF = 0x7000_0000_0000_0000 ↔ decode w = .ok .handoff)) ∧
  opcodeTable.Pairwise (fun r r' => fieldOp r.value ≠ fieldOp r'.value) ∧
  ∀ r ∈ opcodeTable, fieldOp r.mask = 0xF

/-- R70, R71: OP 0 and OP 8 to 15 are illegal; a legal OP with a bit outside its row's fields is a reserved-bit word. -/
def Obligations.UndecodableWordsByCause : Prop :=
  ∀ w : CmdWord,
    (decode w = .error .illegalOpcode ↔ fieldOp w = 0 ∨ 8 ≤ (fieldOp w).toNat) ∧
    (decode w = .error .reservedBits ↔
      (1 ≤ (fieldOp w).toNat ∧ (fieldOp w).toNat ≤ 7) ∧ ∀ r ∈ opcodeTable, w &&& r.mask ≠ r.value)

/-- R67, R68: a decoded command's opcode and operands are the word's fields. -/
def Obligations.OperandsAreTheFields : Prop :=
  ∀ (w : CmdWord) (i : Instr), decode w = .ok i →
    match i with
    | .latch a => w.extractLsb' 60 4 = 1 ∧ a = w.extractLsb' 0 15
    | .write v => w.extractLsb' 60 4 = 2 ∧ v = w.extractLsb' 0 8
    | .read => w.extractLsb' 60 4 = 3
    | .selftest a n b => w.extractLsb' 60 4 = 4 ∧ a = w.extractLsb' 0 15 ∧ n = w.extractLsb' 32 16
        ∧ (b = .perPattern ↔ w.getLsbD 48 = true)
    | .program => w.extractLsb' 60 4 = 5
    | .verify => w.extractLsb' 60 4 = 6
    | .handoff => w.extractLsb' 60 4 = 7

/-- The words the spec writes out for each command decode to it (R72, 95_test_vectors.md V30). -/
def Obligations.WrittenWordsDecode : Prop :=
  decode 0x1000_0000_0000_1234 = .ok (.latch 0x1234) ∧
  decode 0x2000_0000_0000_00A5 = .ok (.write 0xA5) ∧
  decode 0x3000_0000_0000_0000 = .ok .read ∧
  decode 0x4001_0002_0000_0010 = .ok (.selftest 0x0010 2 .perPattern) ∧
  decode 0x5000_0000_0000_0000 = .ok .program ∧
  decode 0x6000_0000_0000_0000 = .ok .verify ∧
  decode 0x7000_0000_0000_0000 = .ok .handoff

/-- R72, R73: what the assembler makes of a line decodes to the commands the line stands for, line by line, with the
numbers as written (BOOT: the configuration's); it takes a line exactly when its numbers fit their fields. That it takes
a SELFTEST length of 0x8001 to 0xFFFF, where R72 says it may, is the model's DESIGN CHOICE (log 30). -/
def Obligations.AssembledLinesDecode : Prop :=
  ∀ (c : Config) (l : AsmLine),
    (∀ ws : List CmdWord, l.assemble c = some ws →
      ws.map decode = (l.expand c).map .ok ∧
      match l with
      | .latch a => ∃ x : Addr, x.toNat = a ∧ ws.map decode = [.ok (.latch x)]
      | .write v => ∃ y : Byte, y.toNat = v ∧ ws.map decode = [.ok (.write y)]
      | .read => ws.map decode = [.ok .read]
      | .selftest a n b => ∃ (x : Addr) (m : BitVec 16), x.toNat = a ∧ m.toNat = n ∧
          ws.map decode = [.ok (.selftest x m b)]
      | .program => ws.map decode = [.ok .program]
      | .verify => ws.map decode = [.ok .verify]
      | .handoff => ws.map decode = [.ok .handoff]
      | .wrat a v => ∃ (x : Addr) (y : Byte), x.toNat = a ∧ y.toNat = v ∧
          ws.map decode = [.ok (.latch x), .ok (.write y)]
      | .rdat a => ∃ x : Addr, x.toNat = a ∧ ws.map decode = [.ok (.latch x), .ok .read]
      | .testcell a p => ∃ (x : Addr) (y : Byte), x.toNat = a ∧ y.toNat = p ∧
          ws.map decode = [.ok (.latch x), .ok (.write y), .ok .read]
      | .boot => ws.map decode =
          [.ok (.selftest c.stStart c.stLen c.stStrategy), .ok .program, .ok .verify, .ok .handoff]) ∧
    ((∃ ws, l.assemble c = some ws) ↔
      match l with
      | .latch a => a ≤ 0x7FFF
      | .write v => v ≤ 0xFF
      | .selftest a n _ => a ≤ 0x7FFF ∧ n ≤ 0xFFFF
      | .wrat a v => a ≤ 0x7FFF ∧ v ≤ 0xFF
      | .rdat a => a ≤ 0x7FFF
      | .testcell a p => a ≤ 0x7FFF ∧ p ≤ 0xFF
      | .read => True
      | .program => True
      | .verify => True
      | .handoff => True
      | .boot => True)

/-- R100: the four words of BOOT_ROM, the first with the configuration's ST_STRATEGY, ST_LEN and ST_START in their
fields, and the first word with the defaults. -/
def Obligations.BootRomHoldsItsWords : Prop :=
  ∀ c : Config,
    bootRom c =
      [(0x4000_0000_0000_0000 : CmdWord)
          ||| ((match c.stStrategy with
            | .perAddress => 0
            | .perPattern => 1 : CmdWord) <<< 48)
          ||| (c.stLen.setWidth 64 <<< 32) ||| c.stStart.setWidth 64,
        0x5000_0000_0000_0000, 0x6000_0000_0000_0000, 0x7000_0000_0000_0000] ∧
    (c.stStart = 0x0000 → c.stLen = 0x8000 → c.stStrategy = .perAddress →
      (bootRom c)[0]? = some 0x4000_8000_0000_0000)

/-! The step (43_sequencer.md, 60_exceptions.md). -/

/-- R98, R99: at a command boundary with no host reset on its way, a step of a block that accepts a command runs the
decoded command: the BOOT ROM's at BOOT_PC, or the external issuer's first, which is then taken from it. A running
target takes its turn first (R117); a held one has none. When the target's turn falls is the model's choice (log 14). -/
def Obligations.StepRunsDecodedCommand : Prop :=
  ∀ (s : State) (w : CmdWord) (i : Instr),
    s.cfg.wf = true → s.busy = false → s.fault = false → s.phase ≠ .init → s.hostReset = none → decode w = .ok i →
    (s.cfg.cmdSource = .boot → s.bootPc.toNat < 4 → (bootRom s.cfg)[s.bootPc.toNat]? = some w →
      step s = exec i (targetTurn s)) ∧
    (∀ rest, s.cfg.cmdSource = .external → s.issuer = w :: rest →
      step s = exec i { targetTurn s with issuer := rest }) ∧
    (s.tgt = .held → targetTurn s = s)

/-- R99, R71, R107, R108: a word that is no command is taken and faults with its cause, in every phase past INIT, so
before AFTER_HANDOFF too (V60.2, V60.3); nothing else changes. A running target takes its turn first, which is the
model's choice (log 14). -/
def Obligations.StepFaultsUndecodableWord : Prop :=
  ∀ (s : State) (w : CmdWord) (rest : List CmdWord) (e : DecodeError),
    s.cfg.wf = true → s.busy = false → s.fault = false → s.phase ≠ .init → s.hostReset = none →
    s.cfg.cmdSource = .external → s.issuer = w :: rest → decode w = .error e →
    step s = .next { targetTurn s with
      issuer := rest
      fault := true
      faultCause := match e with
        | .illegalOpcode => .illegalOpcode
        | .reservedBits => .reservedBits
      faultCmd := w } ∧
    (s.tgt = .held → targetTurn s = s)

/-- R107, R108: the checks turn a command away in their order, the word and the cause are recorded, and nothing else
changes; FAULT_CMD is the command's own word. That FAULT_CMD is `encode i` is deduced (log 22). -/
def Obligations.ChecksTurnAwayInOrder : Prop :=
  ∀ (i : Instr) (s : State),
    (s.phase ≠ .hostDriving → exec i s = .next (faulted .afterHandoff i s)) ∧
    (s.phase = .hostDriving →
      (∀ a n b, i = .selftest a n b → 0x8000 < n.toNat → exec i s = .next (faulted .badLength i s)) ∧
      (∀ v, i = .write v → s.writeArmed = false → exec i s = .next (faulted .writeNotArmed i s)) ∧
      (i = .read → s.addrValid = false → exec i s = .next (faulted .readNoAddress i s)))

/-- R135: an issuer that keeps its four obligations never sees a fault: a command past its checks completes and leaves
the fault record as it was, whatever state it starts from. -/
def Obligations.KeptObligationsNeverFault : Prop :=
  ∀ (i : Instr) (s : State), s.phase = .hostDriving →
    (∀ a n b, i = .selftest a n b → n.toNat ≤ 0x8000) → (∀ v, i = .write v → s.writeArmed = true) →
    (i = .read → s.addrValid = true) →
    ∃ t, exec i s = .next t ∧ t.fault = s.fault ∧ t.faultCause = s.faultCause ∧ t.faultCmd = s.faultCmd ∧
      t.busy = false ∧ t.cfg = s.cfg ∧ t.bootPc = bootPcAfter s

/-- R25, R99: BOOT_PC advances by 1 exactly when a command of the boot sequence completes, and stays otherwise. -/
def Obligations.BootPcAdvancesOnCompletion : Prop :=
  ∀ (i : Instr) (s t : State), exec i s = .next t →
    t.bootPc = if s.cfg.cmdSource = .boot ∧ check i s = .noFault then s.bootPc + 1 else s.bootPc

/-- R23: once FAULT = 1 nothing but a host reset changes the fault record. -/
def Obligations.FirstFaultIsKept : Prop :=
  ∀ s t : State, step s = .next t → s.hostReset = none → s.fault = true →
    t.fault = true ∧ t.faultCause = s.faultCause ∧ t.faultCmd = s.faultCmd

/-- R109: a faulted block accepts no command and keeps its pins and every element; only a running target moves the
environment (EXT_MEM, EXT_LATCH). That such a step answers a next state is deduced (log 19), and so is the target's turn (log 14). -/
def Obligations.FaultedBlockIsQuiescent : Prop :=
  ∀ s : State, s.cfg.wf = true → s.busy = false → s.fault = true → s.phase ≠ .init → s.hostReset = none →
    step s = .next (targetTurn s) ∧ (s.tgt = .held → step s = .next s) ∧ (targetTurn s).pins = s.pins ∧
    (targetTurn s).traceRev = s.traceRev ∧ (targetTurn s).issuer = s.issuer ∧
    { targetTurn s with extMem := s.extMem, extLatch := s.extLatch, drawCount := s.drawCount } = s

/-- R103: after HANDOFF the block performs no pin micro-operation until a host reset; with BOOT no further command is
fetched, with EXTERNAL every command faults with AFTER_HANDOFF. The target's turn and the idle turn are the model's
(log 14, 19). -/
def Obligations.NoBusActivityAfterHandoff : Prop :=
  ∀ s t : State, step s = .next t → s.phase = .targetRunning → s.hostReset = none →
    t.pins = s.pins ∧ t.traceRev = s.traceRev ∧ t.eventsRev = s.eventsRev ∧ t.phase = .targetRunning ∧
    (s.cfg.cmdSource = .boot → s.bootPc = 4 → t = targetTurn s) ∧
    (∀ w rest i, s.cfg.cmdSource = .external → s.fault = false → s.issuer = w :: rest → decode w = .ok i →
      t.fault = true ∧ t.faultCause = .afterHandoff ∧ t.faultCmd = w)

/-- R105, R120: a run that has ended well and a stuck one (HOST_DRIVING and no command left, faulted or not) keep every
element of the block at every further step; only a running target moves the environment; a stuck run is not final. That
such a step answers a next state is deduced (log 19), and so is the target's turn (log 14). FaultedBlockIsQuiescent
says the same of every faulted block, with a command left or none (R109). -/
def Obligations.EndsKeepTheState : Prop :=
  ∀ s : State, s.Stuck ∨ s.Final → s.cfg.wf = true → s.hostReset = none →
    step s = .next (targetTurn s) ∧ (s.tgt = .held → step s = .next s) ∧ (s.Stuck → ¬ s.Final) ∧
      { targetTurn s with extMem := s.extMem, extLatch := s.extLatch, drawCount := s.drawCount } = s

/-- R101: a configuration is well formed only when ST_LEN and IMAGE_LEN are at most 0x8000; any other is refused. -/
def Obligations.MalformedConfigIsRefused : Prop :=
  ∀ s : State, (0x8000 < s.cfg.stLen.toNat ∨ 0x8000 < s.cfg.image.length) → step s = .refused .malformedConfig

/-! The bus driver (41_bus_driver.md). -/

/-- R81: LATCH a, from a boundary at which the host owns the bus: the eight snapshots (R126 among them), the latches,
the roles, the bus-protocol registers and EXT_LATCH; nothing else. -/
def Obligations.LatchLatchesItsAddress : Prop :=
  ∀ (a : Addr) (s : State), HostReady s →
    ∃ t, exec (.latch a) s = .next t ∧
      t.observed = { s.observed with
        pins := { s.pins with
          adOut := a.extractLsb' 0 8, ahOut := a.extractLsb' 8 6, a14Out := a.getLsbD 14, haDir := .driving }
        extLatch := a
        latchedAddr := a
        addrValid := true
        writeArmed := true
        busy := false
        bootPc := bootPcAfter s
        traceRev := (latchTrace a s.pins).reverse ++ s.traceRev }

/-- R82: WRITE v under an armed latch: the five snapshots (R128 among them), the data latch, WRITE_ARMED and the
device's store at EXT_LATCH; nothing else. Without the latch it faults and no pin moves. -/
def Obligations.WriteStoresAtTheLatch : Prop :=
  ∀ (v : Byte) (s : State), HostReady s →
    (s.writeArmed = true →
      ∃ t, exec (.write v) s = .next t ∧
        t.observed = { s.observed with
          pins := { s.pins with adOut := v }
          extMem := deviceStore s.cfg.dev s.extMem s.extLatch v
          writeArmed := false
          busy := false
          bootPc := bootPcAfter s
          traceRev := (writeTrace v s.pins).reverse ++ s.traceRev }) ∧
    (s.writeArmed = false → exec (.write v) s = .next (faulted .writeNotArmed (.write v) s))

/-- R82, R57: with the IDEAL device the cell at EXT_LATCH holds v afterwards and every other cell is unchanged. -/
def Obligations.WriteChangesOneCell : Prop :=
  ∀ (v : Byte) (s : State), HostReady s → s.writeArmed = true → s.cfg.dev = .ideal → Memory.wf s.extMem = true →
    ∃ t, exec (.write v) s = .next t ∧
      Memory.read t.extMem s.extLatch = v ∧
      ∀ b, b ≠ s.extLatch → Memory.read t.extMem b = Memory.read s.extMem b

/-- R83: READ with a latched address: the four snapshots, LAST_READ and WRITE_ARMED; nothing else. With SETTLE_OK the
byte is the device's at EXT_LATCH; without it some byte. Without an address it faults and no pin moves. -/
def Obligations.ReadSamplesTheLatch : Prop :=
  ∀ s : State, HostReady s →
    (s.addrValid = true →
      ∃ t b, exec .read s = .next t ∧
        (s.cfg.settleOk = true → b = deviceResp s.cfg.dev s.extMem s.extLatch) ∧
        t.observed = { s.observed with
          lastRead := b
          writeArmed := false
          busy := false
          bootPc := bootPcAfter s
          traceRev := (readTrace (deviceResp s.cfg.dev s.extMem s.extLatch) s.pins).reverse ++ s.traceRev }) ∧
    (s.addrValid = false → exec .read s = .next (faulted .readNoAddress .read s))

/-- R85: the law of one transaction. -/
def Obligations.TransactionReturnsItsByte : Prop :=
  ∀ (a : Addr) (v : Byte) (s : State), HostReady s → s.cfg.dev = .ideal → s.cfg.settleOk = true →
    Memory.wf s.extMem = true →
    ∃ t, execAll [.latch a, .write v, .read] s = .next t ∧ t.lastRead = v ∧ Memory.read t.extMem a = v

/-! The memory procedures (42_memory_procedures.md). -/

/-- R86, R89, R90: a self-test of any device leaves the memory the device's own functions give, and with SETTLE_OK counts
one mismatch per differing compare; outside the bus only ERR_TALLY and the self-test's results change, the block is at a
boundary again, and one event is emitted. On the bus (R84, R26 to R28) the last address of the range stands, WRITE_ARMED
is 0, AD_OUT holds what was put there last, and with SETTLE_OK LAST_READ is what the device gives there; a range of no
address leaves all of it. Without SETTLE_OK the tally and LAST_READ are some values, and the rest is the same. -/
def Obligations.SelftestComputesTheSweep : Prop :=
  ∀ (start : Addr) (len : BitVec 16) (strat : Strategy) (s : State), HostReady s → len.toNat ≤ 0x8000 →
    ∃ (t : State) (tally : Count), exec (.selftest start len strat) s = .next t ∧
      (s.cfg.settleOk = true → tally = BitVec.ofNat 32 (refSweep s.cfg.dev start len.toNat strat s.extMem).2) ∧
      t.extMem = (refSweep s.cfg.dev start len.toNat strat s.extMem).1 ∧
      t.outsideBus = { s.outsideBus with
        errTally := tally
        stErrors := tally
        stTested := BitVec.ofNat 32 (4 * len.toNat)
        stPass := decide (tally = 0)
        stDone := true } ∧
      HostReady t ∧ t.busy = false ∧ t.bootPc = bootPcAfter s ∧
      t.eventsRev = .stResult t.stPass t.stErrors t.stTested :: s.eventsRev ∧
      (len.toNat = 0 → NoneVisited s t) ∧
      (0 < len.toNat →
        let last : Addr := BitVec.ofNat 15 ((start.toNat + (len.toNat - 1)) % 2 ^ 15)
        LastVisited last (match strat with
          | .perAddress => 0x00
          | .perPattern => last.extractLsb' 0 8) s t ∧
        (s.cfg.settleOk = true → t.lastRead = deviceResp s.cfg.dev t.extMem last))

/-- R86, R90: a self-test of legal length completes from every state in HOST_DRIVING, settled or not, and its verdict
is that its tally is 0. -/
def Obligations.SelftestReportsItsTally : Prop :=
  ∀ (start : Addr) (len : BitVec 16) (strat : Strategy) (s : State), s.phase = .hostDriving → len.toNat ≤ 0x8000 →
    ∃ t, exec (.selftest start len strat) s = .next t ∧ t.stDone = true ∧ t.stErrors = t.errTally ∧
      t.stTested = BitVec.ofNat 32 (4 * len.toNat) ∧ (t.stPass = true ↔ t.stErrors = 0) ∧
      t.phase = .hostDriving ∧ t.pgWritten = s.pgWritten ∧ t.pgDone = s.pgDone ∧ t.vfErrors = s.vfErrors ∧
      t.vfChecked = s.vfChecked ∧ t.vfPass = s.vfPass ∧ t.vfDone = s.vfDone

/-- R92: the self-test on fault-free memory; its range is start to start+len-1, mod 2^15 (R48, R86). -/
def Obligations.SelftestPassesOnIdealMemory : Prop :=
  ∀ (start : Addr) (len : BitVec 16) (strat : Strategy) (s : State), HostReady s → s.cfg.dev = .ideal →
    s.cfg.settleOk = true → Memory.wf s.extMem = true → len.toNat ≤ 0x8000 →
    ∃ t, exec (.selftest start len strat) s = .next t ∧
      t.stErrors = 0 ∧ t.stPass = true ∧ t.stTested.toNat = 4 * len.toNat ∧
      (∀ k < len.toNat, Memory.read t.extMem (BitVec.ofNat 15 ((start.toNat + k) % 2 ^ 15)) = 0x00) ∧
      (∀ b, (∀ k < len.toNat, b ≠ BitVec.ofNat 15 ((start.toNat + k) % 2 ^ 15)) →
        Memory.read t.extMem b = Memory.read s.extMem b)

/-- R97: one stuck cell in the range counts three mismatches, under either strategy: of PATTERN's bytes written to it,
0x55, 0xAA and 0xFF read back differently, and 0x00 does not. -/
def Obligations.StuckCellCountsThree : Prop :=
  ∀ (start : Addr) (len : BitVec 16) (strat : Strategy) (c : Addr) (s : State), HostReady s →
    s.cfg.dev = .stuck0 c → s.cfg.settleOk = true → Memory.wf s.extMem = true → len.toNat ≤ 0x8000 →
    (∃ k < len.toNat, BitVec.ofNat 15 ((start.toNat + k) % 2 ^ 15) = c) →
    (∃ t, exec (.selftest start len strat) s = .next t ∧ t.stErrors = 3 ∧ t.stPass = false) ∧
    ∀ p ∈ ([0x55, 0xAA, 0xFF, 0x00] : List Byte),
      ∃ u, execAll [.latch c, .write p, .read] s = .next u ∧ u.lastRead = 0x00 ∧
        (u.lastRead ≠ p ↔ p ∈ ([0x55, 0xAA, 0xFF] : List Byte))

/-- R87: PROGRAM stores the image through the device in ascending order; outside the bus only its results change, and
ERR_TALLY and LAST_READ stay. On the bus (R84, R26, R27) the image's last address stands with its byte on the AD latch
and WRITE_ARMED is 0; an empty image leaves all of it. -/
def Obligations.ProgramStoresTheImage : Prop :=
  ∀ s : State, HostReady s → s.cfg.image.length ≤ 0x8000 →
    ∃ t, exec .program s = .next t ∧
      t.extMem = refProgram s.cfg.dev s.cfg.image s.extMem ∧
      t.outsideBus = { s.outsideBus with pgWritten := BitVec.ofNat 32 s.cfg.image.length, pgDone := true } ∧
      t.lastRead = s.lastRead ∧ HostReady t ∧ t.busy = false ∧ t.bootPc = bootPcAfter s ∧
      t.eventsRev =
        ((indexedImage s.cfg.image).map fun ib => Event.progress .write (BitVec.ofNat 15 ib.1) ib.2).reverse
          ++ s.eventsRev ∧
      (s.cfg.image = [] → NoneVisited s t) ∧
      ∀ byte, s.cfg.image.getLast? = some byte →
        LastVisited (BitVec.ofNat 15 (s.cfg.image.length - 1)) byte s t

/-- R87, R53: with the IDEAL device the image lies at addresses 0 to IMAGE_LEN-1 afterwards and every other cell is
unchanged. -/
def Obligations.ProgramWritesOnlyTheImage : Prop :=
  ∀ s : State, HostReady s → s.cfg.image.length ≤ 0x8000 → s.cfg.dev = .ideal → Memory.wf s.extMem = true →
    ∃ t, exec .program s = .next t ∧
      (∀ (i : Nat) (h : i < s.cfg.image.length), Memory.read t.extMem (BitVec.ofNat 15 i) = s.cfg.image[i]) ∧
      ∀ b : Addr, s.cfg.image.length ≤ b.toNat → Memory.read t.extMem b = Memory.read s.extMem b

/-- R88, R89, R90: VERIFY leaves the memory and observes one byte for each image byte, to the end of the image: it
counts the observed bytes that differ, and its events show the observed bytes in order (NS17) and then the result.
Outside the bus only ERR_TALLY and its results change. On the bus (R84, R26 to R28) the image's last address stands,
WRITE_ARMED is 0, and LAST_READ is the last byte observed; an empty image leaves all of it. With SETTLE_OK the observed
bytes are what the device gives at the image's addresses; without it they are some bytes, and the rest is the same. -/
def Obligations.VerifyCountsMismatches : Prop :=
  ∀ s : State, HostReady s → s.cfg.image.length ≤ 0x8000 →
    ∃ (t : State) (tally : Count) (observed : List Byte), exec .verify s = .next t ∧
      observed.length = s.cfg.image.length ∧
      tally = BitVec.ofNat 32 ((observed.zip s.cfg.image).countP fun ob => decide (ob.1 ≠ ob.2)) ∧
      t.eventsRev = .vfResult t.vfPass t.vfErrors t.vfChecked ::
        ((indexedImage observed).map fun ib => Event.progress .verify (BitVec.ofNat 15 ib.1) ib.2).reverse
          ++ s.eventsRev ∧
      (∀ byte, observed.getLast? = some byte → t.lastRead = byte) ∧
      (s.cfg.settleOk = true →
        observed = ((List.range s.cfg.image.length).map fun i =>
          deviceResp s.cfg.dev s.extMem (BitVec.ofNat 15 i)) ∧
        tally = BitVec.ofNat 32 (refMismatches s.cfg.dev s.cfg.image s.extMem)) ∧
      t.extMem = s.extMem ∧
      t.outsideBus = { s.outsideBus with
        errTally := tally
        vfErrors := tally
        vfChecked := BitVec.ofNat 32 s.cfg.image.length
        vfPass := decide (tally = 0)
        vfDone := true } ∧
      HostReady t ∧ t.busy = false ∧ t.bootPc = bootPcAfter s ∧
      (s.cfg.image = [] → NoneVisited s t) ∧
      (s.cfg.image ≠ [] →
        let last : Addr := BitVec.ofNat 15 (s.cfg.image.length - 1)
        LastVisited last (last.extractLsb' 0 8) s t ∧
        (s.cfg.settleOk = true → t.lastRead = deviceResp s.cfg.dev s.extMem last))

/-- R88, R90: a verify pass completes from every state in HOST_DRIVING, settled or not, leaves the self-test's and the
write pass's results, and its verdict is that its tally is 0. -/
def Obligations.VerifyReportsItsTally : Prop :=
  ∀ s : State, s.phase = .hostDriving →
    ∃ t, exec .verify s = .next t ∧ t.vfDone = true ∧ t.vfErrors = t.errTally ∧ (t.vfPass = true ↔ t.vfErrors = 0) ∧
      t.phase = .hostDriving ∧ t.stErrors = s.stErrors ∧ t.stTested = s.stTested ∧ t.stPass = s.stPass ∧
      t.stDone = s.stDone ∧ t.pgWritten = s.pgWritten ∧ t.pgDone = s.pgDone

/-- R93: writing the image and then verifying it reports a tally of 0 on fault-free memory. -/
def Obligations.ProgramThenVerifyPasses : Prop :=
  ∀ s : State, HostReady s → s.cfg.image.length ≤ 0x8000 → s.cfg.dev = .ideal → s.cfg.settleOk = true →
    Memory.wf s.extMem = true →
    ∃ t, execAll [.program, .verify] s = .next t ∧ t.vfErrors = 0 ∧ t.vfPass = true

/-- R95: so does repeating the two passes any number of times. -/
def Obligations.RepeatedPassesKeepTallyZero : Prop :=
  ∀ (n : Nat) (s : State), HostReady s → s.cfg.image.length ≤ 0x8000 → s.cfg.dev = .ideal → s.cfg.settleOk = true →
    Memory.wf s.extMem = true →
    ∃ t, execAll (passes (n + 1)) s = .next t ∧ t.vfErrors = 0 ∧ t.vfPass = true ∧ t.errTally = 0

/-- R94: a write pass that visits every address of the image exactly once, in any order, leaves the memory PROGRAM
leaves, and a following VERIFY reports the same where the settle time suffices (without SETTLE_OK every sample is a draw,
R60, R79, so two passes need not agree). -/
def Obligations.WriteOrderDoesNotMatter : Prop :=
  ∀ (s : State) (visits : List (Nat × Byte)), HostReady s → s.cfg.image.length ≤ 0x8000 → s.cfg.dev = .ideal →
    Memory.wf s.extMem = true → visits.Perm (indexedImage s.cfg.image) →
    ∃ t u, execAll (writeVisits visits) s = .next t ∧ exec .program s = .next u ∧ t.extMem = u.extMem ∧
      ∃ t' u', exec .verify t = .next t' ∧ exec .verify u = .next u' ∧
        (s.cfg.settleOk = true → t'.vfErrors = u'.vfErrors ∧ t'.vfPass = u'.vfPass)

/-- R96: with an empty image PROGRAM and VERIFY append no snapshot, and VERIFY ends with VF_ERRORS = 0. -/
def Obligations.EmptyImageMovesNoPin : Prop :=
  ∀ s : State, s.phase = .hostDriving → s.cfg.image = [] →
    (∃ t, exec .program s = .next t ∧ t.traceRev = s.traceRev ∧ t.pins = s.pins ∧ t.extMem = s.extMem ∧
      t.pgWritten = 0 ∧ t.pgDone = true) ∧
    (∃ t, exec .verify s = .next t ∧ t.traceRev = s.traceRev ∧ t.pins = s.pins ∧ t.extMem = s.extMem ∧
      t.vfErrors = 0 ∧ t.vfChecked = 0 ∧ t.vfPass = true)

/-- R91: no rule of PROGRAM, VERIFY or HANDOFF reads a verdict: states that differ only in verdicts are taken to states
that differ at most in verdicts. The two runs meet the same draws (log 8). -/
def Obligations.VerdictsGateNothing : Prop :=
  ∀ (i : Instr) (s s' : State), (i = .program ∨ i = .verify ∨ i = .handoff) →
    s.withoutVerdicts = s'.withoutVerdicts →
    ∃ t t', exec i s = .next t ∧ exec i s' = .next t' ∧ t.withoutVerdicts = t'.withoutVerdicts

/-- R136: how many snapshots a completed command records: LATCH 8, WRITE 5, READ 4, SELFTEST 68 or 100 for each address,
PROGRAM 13 and VERIFY 12 for each image byte, HANDOFF 2 (3 with TRISTATE), and a faulting command none. -/
def Obligations.PinStepsPerCommand : Prop :=
  ∀ (i : Instr) (s t : State), exec i s = .next t →
    t.traceRev.length = s.traceRev.length +
      if check i s = .noFault then
        match i with
        | .latch _ => 8
        | .write _ => 5
        | .read => 4
        | .selftest _ len .perAddress => 68 * len.toNat
        | .selftest _ len .perPattern => 100 * len.toNat
        | .program => 13 * s.cfg.image.length
        | .verify => 12 * s.cfg.image.length
        | .handoff => match s.cfg.handoffCtrl with
          | .keepDriven => 2
          | .tristate => 3
      else 0

/-! Hand-off, reset and the host reset (43_sequencer.md, 70_reset_and_hazards.md). -/

/-- R102: HANDOFF releases the high address pins (and the control lines with TRISTATE), then drives /RESET high, and the
target runs; nothing else changes. The AD wires float in every snapshot, but that with TRISTATE the memory device may
answer a floating /RD line (R55, NS9; the model's reading, log 10); that the last snapshot does not yet show the running
target is the model's reading too (log 11). -/
def Obligations.HandoffReleasesThenRuns : Prop :=
  ∀ s : State, HostReady s →
    ∃ t ad ad', exec .handoff s = .next t ∧
      (∀ w ∈ [ad, ad'], w = .z ∨ w = .level (deviceResp s.cfg.dev s.extMem s.extLatch)) ∧
      t.observed = { s.observed with
        pins := { s.pins with
          haDir := .idle, resetNOut := true
          ctrlDir := match s.cfg.handoffCtrl with
            | .keepDriven => .driving
            | .tristate => .idle }
        phase := .targetRunning
        tgt := .running
        busy := false
        bootPc := bootPcAfter s
        traceRev := (match s.cfg.handoffCtrl with
          | .keepDriven =>
            [⟨{ s.pins with haDir := .idle, resetNOut := true }, .z⟩, ⟨{ s.pins with haDir := .idle }, .z⟩]
          | .tristate =>
            [⟨{ s.pins with haDir := .idle, ctrlDir := .idle, resetNOut := true }, ad'⟩,
             ⟨{ s.pins with haDir := .idle, ctrlDir := .idle }, ad⟩, ⟨{ s.pins with haDir := .idle }, .z⟩])
          ++ s.traceRev }

/-- R46, column "at reset": what the spec fixes of the state at the instant of reset, for every configuration and every
environment. The last clause names the model's own choices in State.reset (log 3 to 6). -/
def Obligations.ResetHoldsTheSpecsValues : Prop :=
  ∀ (cfg : Config) (mem : Memory) (latch : Addr) (tgt : Target),
    let s := State.powerOn cfg mem latch tgt
    statusReg s 1 = 0 ∧ s.phase = .init ∧ s.busy = false ∧ s.fault = false ∧ s.faultCause = .noFault ∧
      s.faultCmd = 0 ∧ s.bootPc = 0 ∧ s.addrValid = false ∧ s.writeArmed = false ∧ s.latchedAddr = 0 ∧
      s.lastRead = 0 ∧ s.errTally = 0 ∧ s.stErrors = 0 ∧ s.stTested = 0 ∧ s.stPass = false ∧ s.stDone = false ∧
      s.pgWritten = 0 ∧ s.pgDone = false ∧ s.vfErrors = 0 ∧ s.vfChecked = 0 ∧ s.vfPass = false ∧ s.vfDone = false ∧
      s.rdSettled = false ∧ s.cfg = cfg ∧ s.extMem = mem ∧ s.extLatch = latch ∧
      State.reset = State.powerOn Config.default [] 0 .held

/-- R121, R46 column "after INIT": the first step from reset runs the reset sequence: eight snapshots with the PINS
values of its order, the lines at their idle levels, the target held, HOST_DRIVING; the environment's memory and latch
stay. One step for the whole sequence is the model's level (log 1), and what a target does before /RESET is driven low
is not modelled (R123, log 17). -/
def Obligations.ResetSequenceHoldsTheTarget : Prop :=
  ∀ (cfg : Config) (mem : Memory) (latch : Addr) (tgt : Target), cfg.wf = true →
    ∃ t, step (State.powerOn cfg mem latch tgt) = .next t ∧ HostReady t ∧
      t.pinTrace.map (fun n => pinsWord n.pins) =
        [0x0000_0000, 0x0040_0000, 0x0040_0000, 0x0044_0000, 0x004C_0000, 0x006C_0000, 0x006C_0000, 0x006C_0000] ∧
      statusReg t 1 = 0x006C_0000 ∧ t.eventsRev = [] ∧
      { t.observed with traceRev := [] } =
        { (State.powerOn cfg mem latch .held).observed with
          phase := .hostDriving
          pins := { Pins.atReset with wrNOut := true, rdNOut := true, ctrlDir := .driving, rstDir := .driving } }

/-- R122: a host reset at a command boundary gives every element of the block its value at reset and keeps the
recordings, and the environment where the target was held; a target that was running is held again once the next step
has run the reset sequence, over the memory and latch it left (V70.4). The countdown and the separate step of the reset
are the model's (log 16, 17). -/
def Obligations.HostResetAtBoundary : Prop :=
  ∀ s : State, Boundary s → s.cfg.wf = true → s.hostReset = some 0 →
    ∃ t u, step s = .next t ∧
      t.observed = { (State.powerOn s.cfg t.extMem t.extLatch t.tgt).observed with
        traceRev := s.traceRev
        eventsRev := s.eventsRev
        issuer := s.issuer } ∧
      (s.tgt = .held → t.extMem = s.extMem ∧ t.extLatch = s.extLatch) ∧
      step t = .next u ∧ HostReady u ∧ u.tgt = .held ∧ u.extMem = t.extMem ∧ u.extLatch = t.extLatch

/-- R122, U16: a host reset inside a WRITE: every element of the block takes its value at reset, the recordings keep the
snapshots of the micro-operations that ran, and EXT_LATCH is kept; before /WR rises the memory is as it was but for the
latched cell, which is any byte if /WR was low; after /WR has risen the byte is committed. The countdown, the separate
step of the reset sequence, and that the word stays taken, are the model's (log 16, 17, 28). -/
def Obligations.HostResetInsideWrite : Prop :=
  ∀ (v : Byte) (s : State) (w : CmdWord) (rest : List CmdWord) (k : Nat), HostReady s → s.writeArmed = true →
    s.cfg.wf = true → s.busy = false → s.fault = false → s.cfg.cmdSource = .external → decode w = .ok (.write v) →
    s.issuer = w :: rest → s.hostReset = some k → 0 < k → k < 6 →
    ∃ t, step s = .next t ∧
      t.observed = { (State.powerOn s.cfg t.extMem s.extLatch t.tgt).observed with
        traceRev := ((writeTrace v s.pins).take k).reverse ++ s.traceRev
        eventsRev := s.eventsRev
        issuer := rest } ∧
      (k < 3 → t.extMem = s.extMem) ∧
      (k = 3 → ∃ b, t.extMem = Memory.write s.extMem s.extLatch b) ∧
      (3 < k → t.extMem = deviceStore s.cfg.dev s.extMem s.extLatch v)

/-- R122, U17: a host reset inside a LATCH: every element of the block takes its value at reset, the recordings keep the
snapshots of the micro-operations that ran, and the memory is kept; EXT_LATCH is as it was before ALE rises, any address
while ALE is high, and the new address after ALE has fallen. The countdown, the separate step of the reset sequence, and
that the word stays taken, are the model's (log 16, 17, 28). -/
def Obligations.HostResetInsideLatch : Prop :=
  ∀ (a : Addr) (s : State) (w : CmdWord) (rest : List CmdWord) (k : Nat), HostReady s → s.cfg.wf = true →
    s.busy = false → s.fault = false → s.cfg.cmdSource = .external → decode w = .ok (.latch a) → s.issuer = w :: rest →
    s.hostReset = some k → 0 < k → k < 9 →
    ∃ t, step s = .next t ∧
      t.observed = { (State.powerOn s.cfg s.extMem t.extLatch t.tgt).observed with
        traceRev := ((latchTrace a s.pins).take k).reverse ++ s.traceRev
        eventsRev := s.eventsRev
        issuer := rest } ∧
      (k < 6 → t.extLatch = s.extLatch) ∧ (6 < k → t.extLatch = a)

/-- R122, R111, R46: a host reset inside any command of any length, from either source of commands, and inside the reset
sequence: with `u` the state its micro-operations have led to when the reset falls, every element of the block takes its
value at reset, the recordings keep what they held and what ran, and EXT_MEM and EXT_LATCH are as in `u` but for the cell
under a low /WR wire and the latch under a high ALE wire. Inside the reset sequence both stay as before it, once its
second step holds the target. The countdown, the separate step of the reset sequence, and that the word
stays taken, are the model's (log 16, 17, 28). -/
def Obligations.HostResetInsideAnySequence : Prop :=
  (∀ (i : Instr) (w : CmdWord) (s : State) (k : Nat), HostReady s → s.cfg.wf = true → s.busy = false →
    s.fault = false → decode w = .ok i → check i s = .noFault →
    (match s.cfg.cmdSource with
      | .boot => s.bootPc.toNat < 4 ∧ (bootRom s.cfg)[s.bootPc.toNat]? = some w
      | .external => s.issuer.head? = some w) →
    s.hostReset = some k → 0 < k → k < (commandActs s.cfg i).length →
    let u := runActs ((commandActs s.cfg i).take k) (setBusy true (acceptWord s))
    ∃ t, step s = .next t ∧ ResetOver u t ∧ t.cfg = s.cfg ∧
      t.issuer = (match s.cfg.cmdSource with
        | .boot => s.issuer
        | .external => s.issuer.tail) ∧
      (∃ new, t.pinTrace = s.pinTrace ++ new ∧ new.length = pinSteps ((commandActs s.cfg i).take k)) ∧
      ∃ new, t.events = s.events ++ new) ∧
  ∀ (s : State) (k : Nat), Boundary s → s.phase = .init → s.cfg.wf = true → s.hostReset = some k → 0 < k → k < 9 →
    let u := runActs (initActs.take k) s
    ∃ t, step s = .next t ∧ ResetOver u t ∧ t.cfg = s.cfg ∧ t.issuer = s.issuer ∧
      (∃ new, t.pinTrace = s.pinTrace ++ new ∧ new.length = pinSteps (initActs.take k)) ∧ t.events = s.events ∧
      (2 ≤ k → t.extMem = s.extMem ∧ t.extLatch = s.extLatch)

/-! The pins (40_pin_primitives.md, 20_memory.md). -/

/-- R58, R59, R55: at a falling edge of the ALE wire EXT_LATCH takes from each AD, AH and A14 wire its level (a wire
without one gives a draw); at a rising edge of the /WR wire the device stores the byte on AD, and where an AD wire floats
or is in contention the cell at EXT_LATCH is some byte; no entry of a sequence changes either otherwise, whoever drives
the wires. A floating wire gives no edge, a running target holds its lines through an entry, and one AD wire without a
level frees the whole cell: deduced (log 9, 10, 15). -/
def Obligations.EnvironmentReactsToEdgesOnly : Prop :=
  ∀ (a : Act) (s : State),
    let t := doAct a s
    (t.extLatch ≠ s.extLatch → aleWire s.pins s = .high ∧ aleWire t.pins s = .low) ∧
    (t.extMem ≠ s.extMem → wrWire s.pins s = .low ∧ wrWire t.pins s = .high) ∧
    (aleWire s.pins s = .high → aleWire t.pins s = .low → ∀ level : Bool,
      (∀ i : Fin 8, (adWires t.pins s)[i] = (if level then .high else .low) → t.extLatch.getLsbD i = level) ∧
      (∀ i : Fin 7, (haWires t.pins s)[i] = (if level then .high else .low) → t.extLatch.getLsbD (8 + i) = level)) ∧
    (wrWire s.pins s = .low → wrWire t.pins s = .high →
      (∀ v : Byte, (∀ i : Fin 8, (adWires t.pins s)[i] = if v[i] then .high else .low) →
        t.extMem = deviceStore s.cfg.dev s.extMem s.extLatch v) ∧
      ((∃ i : Fin 8, (adWires t.pins s)[i] = .z ∨ (adWires t.pins s)[i] = .contention) →
        ∃ b, t.extMem = Memory.write s.extMem s.extLatch b))

/-- R116, R117: after a pin step that leaves /RESET low the target is held; at the step where /RESET rises from low it
runs; where /RESET stays high nothing changes it. -/
def Obligations.TargetFollowsResetLine : Prop :=
  ∀ (a : Act) (s : State), a.isPinStep = true →
    ((doAct a s).pins.resetWire = .low → (doAct a s).tgt = .held) ∧
    (s.pins.resetWire = .low → (doAct a s).pins.resetWire = .high → (doAct a s).tgt = .running) ∧
    (s.pins.resetWire = .high → (doAct a s).pins.resetWire = .high → (doAct a s).tgt = s.tgt)

/-- R74, R45: a pin micro-operation appends one snapshot, of the pins it leaves and of what the AD wires carry under them
before the environment reacts (that order is deduced, log 11), and no other entry appends one. -/
def Obligations.PinStepRecordsOneSnapshot : Prop :=
  ∀ (a : Act) (s : State),
    (a.isPinStep = true →
      (doAct a s).pinTrace = s.pinTrace ++ [⟨(doAct a s).pins, adWires (doAct a s).pins s⟩]) ∧
    (a.isPinStep = false → (doAct a s).pinTrace = s.pinTrace)

/-- R78: Wait sets RD_SETTLED while the /RD wire is low and changes it not while it is high; every other pin step that
leaves the /RD wire high clears it. Between R44 and R78 the model follows R78 (log 13). -/
def Obligations.SettleFollowsWait : Prop :=
  ∀ s : State,
    (rdWire s.pins s = .low → (doAct .wait s).rdSettled = true) ∧
    (rdWire s.pins s = .high → (doAct .wait s).rdSettled = s.rdSettled) ∧
    ∀ a : Act, a.isPinStep = true → a ≠ .wait → rdWire (doAct a s).pins s = .high → (doAct a s).rdSettled = false

/-! The status port (10_state.md). -/

/-- R38: every field of STATUS, with the codes of PHASE (R21) and of FAULT_CAUSE (R106), and its reserved bits. -/
def Obligations.StatusRegisterFields : Prop :=
  ∀ s : State, let r := statusReg s 0
    (r.extractLsb' 0 2).toNat = (match s.phase with
        | .init => 0
        | .hostDriving => 1
        | .busReleased => 2
        | .targetRunning => 3) ∧
      (r.extractLsb' 4 4).toNat = (match s.faultCause with
        | .noFault => 0
        | .illegalOpcode => 1
        | .reservedBits => 2
        | .afterHandoff => 3
        | .badLength => 4
        | .writeNotArmed => 5
        | .readNoAddress => 6) ∧
      r.getLsbD 2 = s.busy ∧ r.getLsbD 3 = s.fault ∧ r.getLsbD 8 = s.addrValid ∧ r.getLsbD 9 = s.writeArmed ∧
      r.getLsbD 10 = s.stDone ∧ r.getLsbD 11 = s.stPass ∧ r.getLsbD 12 = s.pgDone ∧ r.getLsbD 13 = s.vfDone ∧
      r.getLsbD 14 = s.vfPass ∧ (r.getLsbD 15 = true ↔ s.cfg.cmdSource = .external) ∧
      (r.getLsbD 16 = true ↔ s.cfg.handoffCtrl = .tristate) ∧ r.extractLsb' 17 15 = 0

/-- R39: every field of PINS, and its reserved bits. -/
def Obligations.PinsRegisterFields : Prop :=
  ∀ s : State, let r := statusReg s 1
    r.extractLsb' 0 8 = s.pins.adOut ∧ (r.getLsbD 8 = true ↔ s.pins.adDir = .driving) ∧
      r.extractLsb' 9 6 = s.pins.ahOut ∧ r.getLsbD 15 = s.pins.a14Out ∧
      (r.getLsbD 16 = true ↔ s.pins.haDir = .driving) ∧ r.getLsbD 17 = s.pins.aleOut ∧
      r.getLsbD 18 = s.pins.wrNOut ∧ r.getLsbD 19 = s.pins.rdNOut ∧ r.getLsbD 20 = s.pins.resetNOut ∧
      (r.getLsbD 21 = true ↔ s.pins.ctrlDir = .driving) ∧ (r.getLsbD 22 = true ↔ s.pins.rstDir = .driving) ∧
      r.extractLsb' 23 9 = 0

/-- R40: registers 0x2 to 0xF, with the unused bits and the reserved indices reading 0. -/
def Obligations.RemainingStatusRegisters : Prop :=
  ∀ s : State,
    (statusReg s 0x2).extractLsb' 0 15 = s.latchedAddr ∧ (statusReg s 0x2).extractLsb' 15 17 = 0 ∧
    (statusReg s 0x3).extractLsb' 0 8 = s.lastRead ∧ (statusReg s 0x3).extractLsb' 8 24 = 0 ∧
    statusReg s 0x4 = s.errTally ∧ statusReg s 0x5 = s.stErrors ∧ statusReg s 0x6 = s.stTested ∧
    statusReg s 0x7 = s.pgWritten ∧ statusReg s 0x8 = s.vfErrors ∧ statusReg s 0x9 = s.vfChecked ∧
    (statusReg s 0xA).extractLsb' 0 16 = BitVec.ofNat 16 s.cfg.image.length ∧
    (statusReg s 0xA).extractLsb' 16 16 = 0 ∧
    (statusReg s 0xC ++ statusReg s 0xB : BitVec (32 + 32)) = s.faultCmd ∧
    (statusReg s 0xD).extractLsb' 0 3 = s.bootPc ∧ (statusReg s 0xD).extractLsb' 3 29 = 0 ∧
    statusReg s 0xE = 0 ∧ statusReg s 0xF = 0

/-! The whole machine. -/

/-- The machine at reset is at a command boundary of the invariant's shape, whatever its configuration and
environment, if its memory is canonical. The values of State.reset that the spec leaves open are the model's (log 3
to 6). -/
def Obligations.BoundaryHoldsAtReset : Prop :=
  Boundary State.reset ∧
  ∀ (cfg : Config) (mem : Memory) (latch : Addr) (tgt : Target), Memory.wf mem = true →
    Boundary (State.powerOn cfg mem latch tgt)

/-- Every step keeps the invariant of command boundaries, wherever a host reset falls: the bus roles of R20, the phases of
R21, BUSY of R22, the canonical memory, the range of BOOT_PC (R25), the fault record (R23), and over the whole of
PIN_TRACE the hazards R129 to R133 (one strobe at a time, no drive against a read, no contention on AD, release before
/RESET rises, no strobe outside reset), for AD once the reset sequence holds the target (R123, R133). The memory's form
(log 4), the host reset and the target's turn (log 14, 16, 17) are the model's. -/
def Obligations.EveryStepKeepsBoundary : Prop := ∀ s t : State, Boundary s → step s = .next t → Boundary t

/-- R56, R133, R134: at a command boundary the host does not drive AD, no AH or A14 wire is in contention, and while the
target is held no AD wire is. With a running target (before the reset sequence, R123, or after hand-off, R117) an AD
wire is in contention only where that target drives this very wire and the device answers a /RD wire that reads 0 without
the host: driven so by the target, floating, or in contention. How a running target drives AD, /RD and the rest is the
model's reading of R55 and R117 (log 10, 15). -/
def Obligations.NoContentionAtBoundary : Prop :=
  ∀ s : State, Boundary s →
    s.pins.adDir = .idle ∧ Line.contention ∉ haWires s.pins s ∧ (s.tgt = .held → ¬ s.Contended) ∧
      ∀ i : Fin 8, (adWires s.pins s)[i] = .contention →
        s.tgt = .running ∧ rdLow s.pins s = true ∧ (Config.targetAD s.drawCount i).isSome = true

/-- R101: a block that runs its boot sequence never faults, wherever a host reset falls: every step keeps it so. -/
def Obligations.BootSequenceNeverFaults : Prop := ∀ s t : State, BootSound s → step s = .next t → BootSound t

/-- R101: from power-on with any well-formed boot configuration, any memory, latch and target, the boot run is total and
ends well after the reset sequence and exactly four commands. That these are five steps is the model's level (log 1). -/
def Obligations.BootRunEndsWell : Prop :=
  ∀ (cfg : Config) (mem : Memory) (latch : Addr) (tgt : Target), cfg.wf = true → cfg.cmdSource = .boot →
    Memory.wf mem = true →
    ∃ t, Sys2Proof.core.run 5 (State.powerOn cfg mem latch tgt) = .next t ∧ State.Final t ∧ t.bootPc = 4 ∧
      t.stDone = true ∧ t.pgDone = true ∧ t.vfDone = true

/-- R92, R93, R101, R64: from power-on with any memory, latch and target, on fault-free memory the boot run ends with
every verdict a pass and the image in the external memory, as the block's last commit left it. That it takes five steps
is the model's level (log 1). -/
def Obligations.BootRunLoadsTheImage : Prop :=
  ∀ (cfg : Config) (mem : Memory) (latch : Addr) (tgt : Target), cfg.wf = true → cfg.cmdSource = .boot → cfg.dev = .ideal →
    cfg.settleOk = true → Memory.wf mem = true →
    ∃ t, Sys2Proof.core.run 5 (State.powerOn cfg mem latch tgt) = .next t ∧
      t.stPass = true ∧ t.vfPass = true ∧ t.vfErrors = 0 ∧ t.pgWritten.toNat = cfg.image.length ∧
      ∀ (i : Nat) (h : i < cfg.image.length), Memory.read t.extMem (BitVec.ofNat 15 i) = cfg.image[i]

/-- R21: PHASE only moves forward; only a host reset returns it. -/
def Obligations.PhaseOnlyMovesForward : Prop :=
  ∀ s t : State, step s = .next t → s.hostReset = none → s.phase.code.toNat ≤ t.phase.code.toNat

/-- R24, R35: no step writes the configuration or the image. -/
def Obligations.ConfigurationIsNeverWritten : Prop := ∀ s t : State, step s = .next t → t.cfg = s.cfg

/-- R45: PIN_TRACE and EVENTS only grow, through a host reset too. The order of storage is the model's (log 24). -/
def Obligations.RecordingsOnlyGrow : Prop :=
  ∀ s t : State, step s = .next t →
    (∃ new, t.pinTrace = s.pinTrace ++ new) ∧ ∃ new, t.events = s.events ++ new
end

