-- ==== Sys2Proof/Tests/Slice0.lean ====
section
/-! SUPPORT. Tests/Slice0.lean: this session's own tests, each naming the vector of spec/95_test_vectors.md or the rule
its expected result comes from, and for every obligation with hypotheses a witness that meets all of them. -/

namespace Sys2Proof.Tests

-- One theorem after the other: evaluated all at once, they ask for more threads than the checks allow.
set_option Elab.async false

open Sys2Proof.Machine

/-! Well-formedness: a term that each check refuses (R101, R72, U10, V43.6). -/

theorem test_wf_default : Config.default.wf = true := by decide
theorem test_wf_stLen_refused : { Config.default with stLen := 0x8001 }.wf = false := by decide
theorem test_wf_image_refused : { Config.default with image := List.replicate 0x8001 0x00 }.wf = false := by
  simp [Config.wf, -List.reduceReplicate]
theorem test_wf_image_limit : { Config.default with image := List.replicate 0x8000 0x00 }.wf = true := by
  simp [Config.wf, Config.default, Device.wf, -List.reduceReplicate]
theorem test_wf_tSettle_refused : { Config.default with tSettle := 0 }.wf = false := by decide
theorem test_wf_couple_refused : { Config.default with dev := .couple 5 5 }.wf = false := by decide
theorem test_wf_couple : { Config.default with dev := .couple 5 6 }.wf = true := by decide
theorem test_wf_latch_refused : (AsmLine.latch 0x8000).wf = false := by decide
theorem test_wf_write_refused : (AsmLine.write 0x100).wf = false := by decide
theorem test_wf_selftest_start_refused : (AsmLine.selftest 0x8000 0 .perAddress).wf = false := by decide
theorem test_wf_selftest_len_refused : (AsmLine.selftest 0 0x1_0000 .perAddress).wf = false := by decide
theorem test_wf_selftest_len_limit : (AsmLine.selftest 0x7FFF 0xFFFF .perPattern).wf = true := by decide
theorem test_wf_wrat_refused : (AsmLine.wrat 0x8000 0).wf = false ∧ (AsmLine.wrat 0 0x100).wf = false := by decide
theorem test_wf_rdat_refused : (AsmLine.rdat 0x8000).wf = false := by decide
theorem test_wf_testcell_refused : (AsmLine.testcell 0x8000 0).wf = false ∧ (AsmLine.testcell 0 0x100).wf = false := by
  decide

/-! Decoding and encoding: words written out from R67 and R69 (V30.1 to V30.16). -/

theorem test_decode_latch : decode 0x1000_0000_0000_1234 = .ok (.latch 0x1234) := by decide
theorem test_decode_latch_top : decode 0x1000_0000_0000_7FFF = .ok (.latch 0x7FFF) := by decide
theorem test_decode_latch_bit15 : decode 0x1000_0000_0000_8000 = .error .reservedBits := by decide
theorem test_decode_write : decode 0x2000_0000_0000_00A5 = .ok (.write 0xA5) := by decide
theorem test_decode_write_bit8 : decode 0x2000_0000_0000_0100 = .error .reservedBits := by decide
theorem test_decode_read : decode 0x3000_0000_0000_0000 = .ok .read := by decide
theorem test_decode_read_bit0 : decode 0x3000_0000_0000_0001 = .error .reservedBits := by decide
theorem test_decode_selftest : decode 0x4001_0002_0000_0010 = .ok (.selftest 0x0010 2 .perPattern) := by decide
theorem test_decode_selftest_default : decode 0x4000_8000_0000_0000 = .ok (.selftest 0 0x8000 .perAddress) := by decide
theorem test_decode_selftest_long : decode 0x4000_8001_0000_0000 = .ok (.selftest 0 0x8001 .perAddress) := by decide
theorem test_decode_selftest_bit49 : decode 0x4002_0000_0000_0000 = .error .reservedBits := by decide
theorem test_decode_selftest_bit15 : decode 0x4000_0000_0000_8000 = .error .reservedBits := by decide
theorem test_decode_program : decode 0x5000_0000_0000_0000 = .ok .program := by decide
theorem test_decode_verify : decode 0x6000_0000_0000_0000 = .ok .verify := by decide
theorem test_decode_handoff : decode 0x7000_0000_0000_0000 = .ok .handoff := by decide
theorem test_decode_handoff_bit59 : decode 0x7800_0000_0000_0000 = .error .reservedBits := by decide
theorem test_decode_zero : decode 0x0000_0000_0000_0000 = .error .illegalOpcode := by decide
theorem test_decode_illegal :
    decode 0x8000_0000_0000_0000 = .error .illegalOpcode ∧ decode 0xF000_0000_0000_0000 = .error .illegalOpcode ∧
      decode 0xFFFF_FFFF_FFFF_FFFF = .error .illegalOpcode := by decide
theorem test_encode_selftest : encode (.selftest 0x7FFF 2 .perAddress) = 0x4000_0002_0000_7FFF := by decide
theorem test_encode_selftest_pattern : encode (.selftest 0 4 .perPattern) = 0x4001_0004_0000_0000 := by decide
theorem test_decodeTableWord : decodeTableWord 64 0x2000_0000_0000_003C = some (.write 0x3C) := by decide
theorem test_bootRom_default :
    bootRom Config.default =
      [0x4000_8000_0000_0000, 0x5000_0000_0000_0000, 0x6000_0000_0000_0000, 0x7000_0000_0000_0000] := by decide

/-! The assembler's text (R72, R73, the lines after V30.16). -/

theorem test_asm_latch : assembleLine Config.default "LATCH 0x4001".toList = some [0x1000_0000_0000_4001] := by
  decide +kernel
theorem test_asm_selftest :
    assembleLine Config.default "SELFTEST 0, 4, PATTERN ; strategy (b)".toList = some [0x4001_0004_0000_0000] := by
  decide +kernel
theorem test_asm_selftest_digit :
    assembleLine Config.default "SELFTEST 0x7FFF, 2, 0".toList = some [0x4000_0002_0000_7FFF] := by decide +kernel
theorem test_asm_refused :
    assembleLine Config.default "LATCH 0x8000".toList = none ∧ assembleLine Config.default "WRITE 0x100".toList = none ∧
      assembleLine Config.default "READ 1".toList = none ∧ assembleLine Config.default "NOP".toList = none := by
  decide +kernel
theorem test_asm_testcell :
    assembleText Config.default ["; a cell".toList, "TESTCELL 0x10, 85".toList, "HANDOFF".toList] =
      some [0x1000_0000_0000_0010, 0x2000_0000_0000_0055, 0x3000_0000_0000_0000, 0x7000_0000_0000_0000] := by
  decide +kernel

/-! Small states. -/

/-- The next state of an outcome. -/
def nextOf : Host.Outcome State Fault Refusal → Option State
  | .next t => some t
  | .fault _ => none
  | .refused _ => none

/-- Some components of the state a command leaves. -/
def seen {α : Type} (f : State → α) (o : Host.Outcome State Fault Refusal) : Option α := (nextOf o).map f

/-- The configuration of the vectors: EXTERNAL, the rest as the defaults. -/
def extCfg : Config := { Config.default with cmdSource := .external }

/-- The state "after INIT" (R46) over a memory. -/
def ready (cfg : Config) (mem : Memory) : State := runInit (State.powerOn cfg mem 0x0000 .held)

/-- The same after a LATCH. -/
def latchedAt (a : Addr) (s : State) : State := runActs (latchActs a) s

/-- The same after a HANDOFF. -/
def handedOff (s : State) : State := runActs (handoffActs s.cfg.handoffCtrl) s

/-- The pins of the snapshots a command adds to a state with an empty trace, oldest first, as register PINS shows
them. -/
def tracePins (t : State) : List Count := t.pinTrace.map (fun n => pinsWord n.pins)

/-- The state "after INIT" with nothing recorded, so that a trace shows one command. -/
def quiet (cfg : Config) (mem : Memory) : State := { ready cfg mem with traceRev := [] }

/-! The bus driver (V41). -/

theorem test_latch_trace :
    seen (fun t => (tracePins t, t.pinTrace.map Snapshot.ad)) (exec (.latch 0x1234) (quiet extCfg [])) =
      some ([0x006C_0034, 0x006C_2434, 0x006C_2434, 0x006D_2434, 0x006D_2534, 0x006F_2534, 0x006D_2534, 0x006D_2434],
        [.z, .z, .z, .z, .level 0x34, .level 0x34, .level 0x34, .z]) := by decide +kernel
theorem test_latch_state :
    seen (fun t => (statusReg t 0, t.extLatch, t.latchedAddr)) (exec (.latch 0x7FFF) (ready extCfg [])) =
      some (0x0000_8301, 0x7FFF, 0x7FFF) := by decide +kernel
theorem test_write_trace :
    seen (fun t => (tracePins t, t.pinTrace.map Snapshot.ad, Memory.read t.extMem 0x1234, t.writeArmed))
        (exec (.write 0xA5) { latchedAt 0x1234 (ready extCfg []) with traceRev := [] }) =
      some ([0x006D_24A5, 0x006D_25A5, 0x0069_25A5, 0x006D_25A5, 0x006D_24A5],
        [.z, .level 0xA5, .level 0xA5, .level 0xA5, .z], 0xA5, false) := by decide +kernel
theorem test_write_not_armed :
    seen (fun t => (statusReg t 0, t.traceRev, t.faultCmd)) (exec (.write 0x00) (quiet extCfg [])) =
      some (0x0000_8059, [], 0x2000_0000_0000_0000) := by decide +kernel
theorem test_read_trace :
    let o := exec .read { latchedAt 0x1234 (ready extCfg [(0x1234, 0xA5)]) with traceRev := [] }
    seen (fun t => (tracePins t, t.pinTrace.map Snapshot.ad)) o =
        some ([0x0065_2434, 0x0065_2434, 0x0065_2434, 0x006D_2434], [.level 0xA5, .level 0xA5, .level 0xA5, .z]) ∧
      seen (fun t => (t.lastRead, t.extMem)) o = some (0xA5, [(0x1234, 0xA5)]) := by decide +kernel
theorem test_read_no_address :
    seen (fun t => (statusReg t 0, t.traceRev)) (exec .read (quiet extCfg [])) = some (0x0000_8069, []) := by
  decide +kernel
/-- P2's variant: a part that ignores A14. -/
theorem test_alias14 :
    seen (fun t => (t.lastRead, t.extMem))
        (execAll [.latch 0x4001, .write 0x3C, .latch 0x0001, .write 0xC3, .latch 0x4001, .read]
          (ready { extCfg with dev := .alias14 } [])) = some (0xC3, [(1, 0xC3)]) := by decide +kernel

/-! The memory procedures (V42). -/

theorem test_selftest :
    seen (fun t => (t.extMem, t.latchedAddr, t.traceRev.length, t.events))
        (exec (.selftest 0x0000 2 .perAddress) (quiet extCfg [(0, 0x99), (2, 0x99)])) =
      some ([(2, 0x99)], 0x0001, 136, [.stResult true 0 8]) := by decide +kernel
/-- V42.6 and V42.7: strategy (a) misses a coupling fault that strategy (b) finds. -/
theorem test_selftest_couple :
    (seen State.stErrors
        (exec (.selftest 0x0010 2 .perAddress) (ready { extCfg with dev := .couple 0x0011 0x0010 } [])) = some 0) ∧
      seen State.stErrors
        (exec (.selftest 0x0010 2 .perPattern) (ready { extCfg with dev := .couple 0x0011 0x0010 } [])) = some 3 := by
  decide +kernel
theorem test_selftest_bad_length :
    seen (fun t => (t.faultCause, t.faultCmd, t.stDone, t.traceRev)) (exec (.selftest 0 0x8001 .perAddress) (quiet extCfg [])) =
      some (.badLength, 0x4000_8001_0000_0000, false, []) := by decide +kernel
theorem test_program :
    seen (fun t => (t.extMem, t.pgWritten, t.latchedAddr, t.writeArmed, t.traceRev.length))
        (exec .program (quiet { extCfg with image := [0x80, 0xFE, 0x5A] } [])) =
      some ([(0, 0x80), (1, 0xFE), (2, 0x5A)], 3, 2, false, 39) := by decide +kernel
theorem test_program_events :
    seen State.events (exec .program (ready { extCfg with image := [0x80, 0xFE] } [])) =
      some [.progress .write 0 0x80, .progress .write 1 0xFE] := by decide +kernel
theorem test_verify :
    seen (fun t => (t.vfErrors, t.vfChecked, t.vfPass, t.lastRead, t.traceRev.length))
        (exec .verify (quiet { extCfg with image := [0x80, 0xFE, 0x5A] } [(0, 0x80), (1, 0xFE), (2, 0x5A)])) =
      some (0, 3, true, 0x5A, 36) := by decide +kernel
/-- V42.15: the observed byte, not the expected one, is what the verify pass shows. -/
theorem test_verify_stuck :
    seen (fun t => (t.vfErrors, t.events))
        (execAll [.program, .verify] (ready { extCfg with image := [0x11, 0x22], dev := .stuck0 0x0001 } [])) =
      some (1, [.progress .write 0 0x11, .progress .write 1 0x22, .progress .verify 0 0x11, .progress .verify 1 0x00,
        .vfResult false 1 2]) := by decide +kernel

/-! The sequencer (V43), the faults (V60) and the reset (V70). -/

theorem test_handoff :
    seen (fun t => (tracePins t, t.pinTrace.map Snapshot.ad, statusReg t 0, t.tgt)) (exec .handoff (quiet extCfg [])) =
      some ([0x006C_0000, 0x007C_0000], [.z, .z], 0x0000_8003, .running) := by decide +kernel
theorem test_handoff_tristate :
    seen (fun t => (tracePins t, (statusReg t 0).getLsbD 16))
        (exec .handoff (quiet { extCfg with handoffCtrl := .tristate } [])) =
      some ([0x006C_0000, 0x004C_0000, 0x005C_0000], true) := by decide +kernel
theorem test_after_handoff :
    seen (fun t => statusReg t 0) (exec (.latch 0) (handedOff (latchedAt 0x1234 (ready extCfg [])))) =
      some 0x0000_833B := by decide +kernel
/-- V60.2, V60.3: an illegal opcode and a reserved bit come before the phase. -/
theorem test_priority_decode_first :
    seen State.faultCause (step { handedOff (ready extCfg []) with issuer := [0x9000_0000_0000_0000] }) =
        some .illegalOpcode ∧
      seen State.faultCause (step { handedOff (ready extCfg []) with issuer := [0x1000_0000_0000_8000] }) =
        some .reservedBits := by decide +kernel
/-- V60.5, V60.6: the phase comes before the length and the protocol order. -/
theorem test_priority_phase :
    seen State.faultCause (exec (.selftest 0 0x8001 .perAddress) (handedOff (ready extCfg []))) = some .afterHandoff ∧
      seen State.faultCause (exec (.write 0) (handedOff (latchedAt 0 (ready extCfg [])))) = some .afterHandoff := by
  decide +kernel
/-- V60.8: a faulted block accepts nothing; the issuer holds its word. -/
theorem test_faulted_holds_word :
    seen (fun t => (t.issuer, t.faultCause))
        (step { ready extCfg [] with issuer := [0x1000_0000_0000_0000], fault := true, faultCause := .badLength }) =
      some ([0x1000_0000_0000_0000], .badLength) := by decide +kernel
/-- V70.1. -/
theorem test_init_trace :
    tracePins (ready extCfg []) =
      [0x0000_0000, 0x0040_0000, 0x0040_0000, 0x0044_0000, 0x004C_0000, 0x006C_0000, 0x006C_0000, 0x006C_0000] := by
  decide +kernel
/-- V70.2: EXT_LATCH stays, the latched cell is some byte, the reset sequence is next. -/
theorem test_reset_inside_write :
    ∃ b, seen (fun t => (t.extLatch, t.extMem, t.addrValid, t.phase))
        (step { latchedAt 0x1234 (ready extCfg [(0x1235, 0x77)]) with
          issuer := [0x2000_0000_0000_00A5], hostReset := some 3 }) =
      some (0x1234, Memory.write [(0x1235, 0x77)] 0x1234 b, false, .init) := ⟨Config.freeResetCell _, rfl⟩
/-- R116, U18: from the instant of a host reset the target's state is a draw. -/
theorem test_reset_frees_target (s : State) : (takeHostReset s).tgt = Config.freeTarget s.drawCount := rfl
/-- R117 with TRISTATE: a running target may drive /RD low, and the memory device then drives AD (R60). -/
theorem test_target_drives_rd (h : Config.targetRd 0 = some false) (h' : ∀ i, Config.targetAD 0 i = none) :
    let s := { handedOff (ready { extCfg with handoffCtrl := .tristate } [(0, 0x99)]) with drawCount := 0 }
    rdWire s.pins s = .low ∧ adWires s.pins s = .level 0x99 := by
  intro s
  have low : rdWire s.pins s = .low := by
    change resolve ([] ++ (Config.targetRd 0).toList) = .low
    rw [h]
    rfl
  refine ⟨low, ?_⟩
  refine Vector.ext fun i hi => ?_
  have drivers : adDrivers s.pins s ⟨i, hi⟩
      = [] ++ (if rdLow s.pins s then [(0x99#8)[i]] else []) ++ (Config.targetAD 0 ⟨i, hi⟩).toList := rfl
  rw [adWires_getElem, drivers, rdLow_of_low low, h', Wires.level_getElem]
  rfl
/-- R117: a running target may drive some AD wires and not others, and A14 without AH. -/
theorem test_target_drives_single_wires (hrd : Config.targetRd 0 = none)
    (had : ∀ i, Config.targetAD 0 i = if i = 3 then some true else none)
    (hha : ∀ i, Config.targetHA 0 i = if i = 6 then some false else none) :
    let s := { handedOff (ready extCfg [(0, 0x99)]) with drawCount := 0 }
    adWires s.pins s = ⟨#[.z, .z, .z, .high, .z, .z, .z, .z], rfl⟩ ∧
      haWires s.pins s = ⟨#[.z, .z, .z, .z, .z, .z, .low], rfl⟩ := by
  intro s
  have high : rdWire s.pins s = .high := by
    change resolve ([true] ++ (if targetHasCtrl extCfg then Config.targetRd 0 else none).toList) = .high
    rw [hrd, ite_self]
    rfl
  have ad (i : Fin 8) : adDrivers s.pins s i = (if i = 3 then some true else none).toList := by
    rw [← had i]
    change [] ++ (if rdLow s.pins s then _ else []) ++ (Config.targetAD 0 i).toList = _
    rw [rdLow_of_high high]
    rfl
  have ha (i : Fin 7) : haDrivers s.pins s i = (if i = 6 then some false else none).toList := by
    rw [← hha i]
    rfl
  constructor
  · unfold adWires
    simp only [ad]
    decide
  · unfold haWires
    simp only [ha]
    decide
/-- R55: a wire the device and the target both drive is in contention, the other wires carry the device's level. -/
theorem test_target_contends_one_wire (hrd : Config.targetRd 0 = some false)
    (had : ∀ i, Config.targetAD 0 i = if i = 3 then some true else none) :
    let s := { handedOff (ready { extCfg with handoffCtrl := .tristate } [(0, 0x99)]) with drawCount := 0 }
    adWires s.pins s = ⟨#[.high, .low, .low, .contention, .high, .low, .low, .high], rfl⟩ := by
  intro s
  have low : rdWire s.pins s = .low := by
    change resolve ([] ++ (Config.targetRd 0).toList) = .low
    rw [hrd]
    rfl
  have ad (i : Fin 8) :
      adDrivers s.pins s i = [(0x99#8)[i]] ++ (if i = 3 then some true else none).toList := by
    rw [← had i]
    change [] ++ (if rdLow s.pins s then [(0x99#8)[i]] else []) ++ (Config.targetAD 0 i).toList = _
    rw [rdLow_of_low low]
    rfl
  unfold adWires
  simp only [ad]
  decide
/-- R58, U14: a captured bit is its wire's level, and a draw only where the wire floats or is in contention. -/
theorem test_capture_per_wire (free : BitVec 4) :
    let t := Wires.taken free ⟨#[.high, .z, .low, .contention], rfl⟩
    t[0] = true ∧ t[1] = free[1] ∧ t[2] = false ∧ t[3] = free[3] ∧
      Wires.value? (⟨#[.high, .z, .low, .high], rfl⟩ : Wires 4) = none := by
  refine ⟨?_, ?_, ?_, ?_, by decide⟩ <;> simp [Wires.taken, Line.level?]
/-- R55, NS9: a released /RD line is not known to be inactive: the device may answer it (log 10). -/
theorem test_floating_rd (h : Config.freeRdLow 0 = true) :
    let s := { State.powerOn extCfg [(0, 0x99)] 0 .held with drawCount := 0 }
    adWires s.pins s = .level 0x99 := by
  intro s
  rw [adWires_idle_held rfl rfl, show rdLow s.pins s = true from h]
  rfl
/-- A word placed by `withFetchWord` runs in the very next step (log 2). -/
theorem test_withFetchWord :
    seen (fun t => (t.latchedAddr, t.fault)) (step (State.reset.withFetchWord 64 0x1000_0000_0000_0010)) =
      some (0x0010, false) := by decide +kernel

/-! Witnesses: for every obligation with hypotheses a concrete state and operands that meet all of them, one for each
clause, at the boundary of its range. -/

theorem ready_hostReady (cfg : Config) (mem : Memory) : HostReady (ready cfg mem) :=
  ⟨rfl, runInit_rest _ rfl rfl,
    ⟨⟨(fun h => nomatch h), (fun h => nomatch h)⟩, (fun h => nomatch h), (fun h => nomatch h), (fun h => nomatch h)⟩⟩

theorem latchedAt_hostReady {s : State} (h : HostReady s) (a : Addr) : HostReady (latchedAt a s) := by
  rw [latchedAt, runActs_latchActs h.rest]
  exact ⟨h.phase, latchedState_rest h.rest a, latchedState_coherent s a⟩

/-- The inputs and the recordings are no part of what makes the host ready. -/
theorem hostReady_inputs {s : State} (h : HostReady s) (issuer : List CmdWord) (hostReset : Option Nat)
    (traceRev : List Snapshot) :
    HostReady { s with issuer := issuer, hostReset := hostReset, traceRev := traceRev } :=
  ⟨h.phase, ⟨h.rest.adIdle, h.rest.aleLow, h.rest.wrHigh, h.rest.rdHigh, h.rest.resetLow, h.rest.ctrlDriven,
    h.rest.rstDriven, h.rest.held, h.rest.unsettled⟩,
    ⟨h.coherent.haDriven, h.coherent.latchIs, h.coherent.highPins, h.coherent.armedIs⟩⟩

/-- A boundary with a LATCH and its snapshots behind it. -/
theorem latched_boundary (cfg : Config) : Boundary (latchedAt 0x7FFF (quiet cfg [])) := by
  have rest : QuietBus (quiet cfg []) := by
    have r := hostReady_inputs (ready_hostReady cfg []) [] none []
    exact ⟨rfl, r.rest, r.coherent, fun n hn => nomatch hn⟩
  have q := quiet_latch rest 0x7FFF
  exact ⟨rfl, rfl, (⟨q.rest, q.coherent⟩ : BusRest _ ∧ AddrCoherent _), q.safe,
    ⟨Nat.zero_le 4, fun _ => rfl⟩, ⟨⟨(fun h => nomatch h), fun h => absurd rfl h⟩, fun _ => rfl⟩⟩

/-- A boundary after hand-off, with the target running and HANDOFF's snapshots behind it. -/
theorem handedOff_boundary (cfg : Config) (h : cfg.handoffCtrl = .keepDriven) :
    Boundary (handedOff (quiet cfg [])) := by
  obtain ⟨image, stStart, stLen, stStrategy, cmdSource, handoffCtrl, tSettle, settleOk, dev⟩ := cfg
  cases h
  refine ⟨rfl, rfl, ⟨rfl, rfl, rfl, rfl, rfl, rfl, rfl, rfl⟩, fun n hn => ?_,
    ⟨Nat.zero_le 4, fun _ => rfl⟩, ⟨⟨(fun h => nomatch h), fun h => absurd rfl h⟩, fun _ => rfl⟩⟩
  obtain rfl | hn := List.mem_cons.1 hn
  on_goal 2 => obtain rfl | hn := List.mem_cons.1 hn
  on_goal 3 => exact nomatch hn
  · exact ⟨Nat.le_of_ble_eq_true rfl, fun _ => rfl, fun _ => Wires.z_clean,
      fun _ => ⟨rfl, rfl⟩, fun h => absurd h (Nat.lt_irrefl 0)⟩
  · exact ⟨Nat.le_of_ble_eq_true rfl, fun _ => rfl, fun _ => Wires.z_clean,
      fun _ => ⟨rfl, rfl⟩, fun _ => rfl⟩

theorem witness_EncodeDecodeAgree : decode 0x4001_FFFF_0000_7FFF = .ok (.selftest 0x7FFF 0xFFFF .perPattern) := by decide

theorem witness_OperandsAreTheFields :
    decode 0x1000_0000_0000_7FFF = .ok (.latch 0x7FFF) ∧ decode 0x2000_0000_0000_00FF = .ok (.write 0xFF) ∧
      decode 0x3000_0000_0000_0000 = .ok .read ∧ decode 0x4001_FFFF_0000_7FFF = .ok (.selftest 0x7FFF 0xFFFF .perPattern) ∧
      decode 0x5000_0000_0000_0000 = .ok .program ∧ decode 0x6000_0000_0000_0000 = .ok .verify ∧
      decode 0x7000_0000_0000_0000 = .ok .handoff := by decide

/-- One line of each kind, with its numbers at the top of their ranges; the refusals are above (test_wf_…). -/
theorem witness_AssembledLinesDecode :
    (AsmLine.latch 0x7FFF).assemble Config.default = some [0x1000_0000_0000_7FFF] ∧
      (AsmLine.write 0xFF).assemble Config.default = some [0x2000_0000_0000_00FF] ∧
      AsmLine.read.assemble Config.default = some [0x3000_0000_0000_0000] ∧
      (AsmLine.selftest 0x7FFF 0xFFFF .perPattern).assemble Config.default = some [0x4001_FFFF_0000_7FFF] ∧
      AsmLine.program.assemble Config.default = some [0x5000_0000_0000_0000] ∧
      AsmLine.verify.assemble Config.default = some [0x6000_0000_0000_0000] ∧
      AsmLine.handoff.assemble Config.default = some [0x7000_0000_0000_0000] ∧
      (AsmLine.wrat 0x7FFF 0xFF).assemble Config.default = some [0x1000_0000_0000_7FFF, 0x2000_0000_0000_00FF] ∧
      (AsmLine.rdat 0x7FFF).assemble Config.default = some [0x1000_0000_0000_7FFF, 0x3000_0000_0000_0000] ∧
      (AsmLine.testcell 0x7FFF 0xFF).assemble Config.default =
        some [0x1000_0000_0000_7FFF, 0x2000_0000_0000_00FF, 0x3000_0000_0000_0000] ∧
      AsmLine.boot.assemble Config.default =
        some [0x4000_8000_0000_0000, 0x5000_0000_0000_0000, 0x6000_0000_0000_0000, 0x7000_0000_0000_0000] := by decide

theorem witness_BootRomHoldsItsWords :
    Config.default.stStart = 0x0000 ∧ Config.default.stLen = 0x8000 ∧ Config.default.stStrategy = .perAddress := by decide

theorem witness_StepRunsDecodedCommand_boot :
    let s := { ready Config.default [] with bootPc := 3 }
    s.cfg.wf = true ∧ s.busy = false ∧ s.fault = false ∧ s.phase ≠ .init ∧ s.hostReset = none ∧
      decode 0x7000_0000_0000_0000 = .ok .handoff ∧ s.cfg.cmdSource = .boot ∧ s.bootPc.toNat < 4 ∧
      (bootRom s.cfg)[s.bootPc.toNat]? = some 0x7000_0000_0000_0000 ∧ s.tgt = .held := by decide +kernel

theorem witness_StepRunsDecodedCommand_external :
    let s := { handedOff (ready extCfg []) with issuer := [0x1000_0000_0000_7FFF] }
    s.cfg.wf = true ∧ s.busy = false ∧ s.fault = false ∧ s.phase ≠ .init ∧ s.hostReset = none ∧
      decode 0x1000_0000_0000_7FFF = .ok (.latch 0x7FFF) ∧ s.cfg.cmdSource = .external ∧
      s.issuer = 0x1000_0000_0000_7FFF :: [] ∧ s.tgt = .running := by decide +kernel

theorem witness_StepFaultsUndecodableWord :
    let s := { ready extCfg [] with issuer := [0x8000_0000_0000_0000] }
    s.cfg.wf = true ∧ s.busy = false ∧ s.fault = false ∧ s.phase ≠ .init ∧ s.hostReset = none ∧
      s.cfg.cmdSource = .external ∧ s.issuer = 0x8000_0000_0000_0000 :: [] ∧
      decode 0x8000_0000_0000_0000 = .error .illegalOpcode ∧ s.tgt = .held := by decide +kernel

/-- V60.2 and V60.3: the same after HANDOFF, with the target running. -/
theorem witness_StepFaultsUndecodableWord_after_handoff (w : CmdWord) (e : DecodeError)
    (_ : (w, e) = (0x9000_0000_0000_0000, .illegalOpcode) ∨ (w, e) = (0x1000_0000_0000_8000, .reservedBits)) :
    let s := { handedOff (ready extCfg []) with issuer := [w] }
    s.cfg.wf = true ∧ s.busy = false ∧ s.fault = false ∧ s.phase = .targetRunning ∧ s.hostReset = none ∧
      s.cfg.cmdSource = .external ∧ s.issuer = w :: [] ∧ decode w = .error e ∧ s.tgt = .running := by
  refine ⟨rfl, rfl, rfl, rfl, rfl, rfl, rfl, ?_, rfl⟩
  rename_i h
  rcases h with h | h <;> cases h <;> decide

theorem witness_StepFaultsUndecodableWord_reserved :
    let s := { ready extCfg [] with issuer := [0x3000_0000_0000_0001] }
    s.cfg.wf = true ∧ s.busy = false ∧ s.fault = false ∧ s.phase ≠ .init ∧ s.hostReset = none ∧
      s.cfg.cmdSource = .external ∧ s.issuer = 0x3000_0000_0000_0001 :: [] ∧
      decode 0x3000_0000_0000_0001 = .error .reservedBits := by decide +kernel

theorem witness_ChecksTurnAwayInOrder :
    (handedOff (ready extCfg [])).phase ≠ .hostDriving ∧
      (ready extCfg []).phase = .hostDriving ∧ 0x8000 < (0x8001 : BitVec 16).toNat ∧
      (ready extCfg []).writeArmed = false ∧ (ready extCfg []).addrValid = false := by decide +kernel

theorem witness_KeptObligationsNeverFault :
    (latchedAt 0x7FFF (ready extCfg [])).phase = .hostDriving ∧ (0x8000 : BitVec 16).toNat ≤ 0x8000 ∧
      (latchedAt 0x7FFF (ready extCfg [])).writeArmed = true ∧
      (latchedAt 0x7FFF (ready extCfg [])).addrValid = true := by decide +kernel

theorem witness_BootPcAdvancesOnCompletion :
    (∃ t, exec .program (ready Config.default []) = .next t) ∧
      (ready Config.default []).cfg.cmdSource = .boot ∧ check .program (ready Config.default []) = .noFault :=
  ⟨⟨_, rfl⟩, by decide +kernel, by decide +kernel⟩

/-- A faulted block. -/
def faultedBlock : State := faulted .writeNotArmed (.write 0x02) (ready extCfg [])

theorem witness_FirstFaultIsKept :
    (∃ t, step faultedBlock = .next t) ∧ faultedBlock.hostReset = none ∧ faultedBlock.fault = true :=
  ⟨⟨_, rfl⟩, rfl, rfl⟩

theorem witness_FaultedBlockIsQuiescent :
    faultedBlock.cfg.wf = true ∧ faultedBlock.busy = false ∧ faultedBlock.fault = true ∧ faultedBlock.phase ≠ .init ∧
      faultedBlock.hostReset = none ∧ faultedBlock.tgt = .held := by decide +kernel

theorem witness_NoBusActivityAfterHandoff_boot :
    let s := { handedOff (ready Config.default []) with bootPc := 4 }
    (∃ t, step s = .next t) ∧ s.phase = .targetRunning ∧ s.hostReset = none ∧ s.cfg.cmdSource = .boot ∧ s.bootPc = 4 :=
  ⟨⟨_, rfl⟩, rfl, rfl, rfl, rfl⟩

theorem witness_NoBusActivityAfterHandoff_external :
    let s := { handedOff (ready extCfg []) with issuer := [0x7000_0000_0000_0000] }
    (∃ t, step s = .next t) ∧ s.phase = .targetRunning ∧ s.hostReset = none ∧ s.cfg.cmdSource = .external ∧
      s.fault = false ∧ s.issuer = 0x7000_0000_0000_0000 :: [] ∧ decode 0x7000_0000_0000_0000 = .ok .handoff :=
  ⟨⟨_, rfl⟩, rfl, rfl, rfl, rfl, rfl, by decide⟩

/-- A stuck run, a faulted one, and a run that has ended well, from either source of commands. -/
theorem witness_EndsKeepTheState :
    (ready extCfg []).Stuck ∧ { ready extCfg [] with fault := true }.Stuck ∧ (ready extCfg []).tgt = .held ∧
      (handedOff (ready extCfg [])).Final ∧
      { handedOff (ready Config.default []) with bootPc := 4 }.Final ∧ extCfg.wf = true ∧ Config.default.wf = true ∧
      (ready extCfg []).hostReset = none ∧ (handedOff (ready extCfg [])).hostReset = none :=
  ⟨⟨rfl, rfl, rfl⟩, ⟨rfl, rfl, rfl⟩, rfl, ⟨rfl, rfl, rfl, rfl⟩, ⟨rfl, rfl, rfl, rfl⟩, rfl, rfl, rfl, rfl⟩

theorem witness_MalformedConfigIsRefused :
    0x8000 < (ready { extCfg with stLen := 0x8001 } []).cfg.stLen.toNat ∧
      0x8000 < (ready { extCfg with image := List.replicate 0x8001 0x00 } []).cfg.image.length := by
  refine ⟨by decide +kernel, ?_⟩
  have e : (ready { extCfg with image := List.replicate 0x8001 0x00 } []).cfg.image.length = 0x8001 :=
    List.length_replicate
  omega

theorem witness_LatchLatchesItsAddress : HostReady (ready extCfg []) := ready_hostReady _ _

theorem witness_WriteStoresAtTheLatch :
    HostReady (latchedAt 0x7FFF (ready extCfg [])) ∧ (latchedAt 0x7FFF (ready extCfg [])).writeArmed = true ∧
      HostReady (ready extCfg []) ∧ (ready extCfg []).writeArmed = false :=
  ⟨latchedAt_hostReady (ready_hostReady _ _) _, rfl, ready_hostReady _ _, rfl⟩

theorem witness_WriteChangesOneCell :
    let s := latchedAt 0x7FFF (ready extCfg [(0, 0x99)])
    HostReady s ∧ s.writeArmed = true ∧ s.cfg.dev = .ideal ∧ Memory.wf s.extMem = true ∧ (0x0000 : Addr) ≠ s.extLatch :=
  ⟨latchedAt_hostReady (ready_hostReady _ _) _, rfl, rfl, rfl, by decide +kernel⟩

theorem witness_ReadSamplesTheLatch :
    let s := latchedAt 0x7FFF (ready extCfg [(0, 0x99)])
    HostReady s ∧ s.addrValid = true ∧ s.cfg.settleOk = true ∧ HostReady (ready extCfg []) ∧
      (ready extCfg []).addrValid = false :=
  ⟨latchedAt_hostReady (ready_hostReady _ _) _, rfl, rfl, ready_hostReady _ _, rfl⟩

/-- A configuration with an image of two bytes. -/
def imageCfg : Config := { extCfg with image := [0x11, 0x22] }

/-- What TransactionReturnsItsByte, SelftestComputesTheSweep, SelftestPassesOnIdealMemory, ProgramStoresTheImage,
VerifyCountsMismatches, ProgramThenVerifyPasses and RepeatedPassesKeepTallyZero ask of a state and a length. -/
theorem witness_ideal_passes :
    let s := ready imageCfg [(2, 0x99)]
    HostReady s ∧ s.cfg.dev = .ideal ∧ s.cfg.settleOk = true ∧ Memory.wf s.extMem = true ∧
      s.cfg.image.length ≤ 0x8000 ∧ (0x8000 : BitVec 16).toNat ≤ 0x8000 :=
  ⟨ready_hostReady _ _, rfl, rfl, rfl, by decide +kernel, by decide⟩

/-- The same procedures over no address at all, and the last byte of an image. -/
theorem witness_procedures_none_and_last :
    HostReady (ready extCfg []) ∧ (ready extCfg []).cfg.image = [] ∧ (0 : BitVec 16).toNat = 0 ∧
      0 < (0x8000 : BitVec 16).toNat ∧ (ready imageCfg []).cfg.image.getLast? = some 0x22 ∧
      (ready imageCfg []).cfg.image ≠ [] :=
  ⟨ready_hostReady _ _, rfl, rfl, by decide, rfl, fun h => nomatch h⟩

/-- The examples of R86 and R88: what the last visit leaves. -/
theorem test_last_visit :
    (seen (fun t => (t.latchedAddr, t.writeArmed, t.lastRead, t.pins.adOut))
        (exec (.selftest 0x7FFF 2 .perPattern) (ready extCfg [])) =
      some (0x0000, false, 0x00, 0x00)) ∧
      seen (fun t => (t.latchedAddr, t.writeArmed, t.lastRead, t.pins.adOut))
        (exec .verify (ready imageCfg [(1, 0x22)])) = some (0x0001, false, 0x22, 0x01) := by
  decide +kernel

/-- A cell in and a cell outside a range that wraps. -/
theorem witness_SelftestPassesOnIdealMemory :
    (1 < (2 : BitVec 16).toNat ∧ BitVec.ofNat 15 (((0x7FFF : Addr).toNat + 1) % 2 ^ 15) = (0x0000 : Addr)) ∧
      ∀ k < 2, (0x0001 : Addr) ≠ BitVec.ofNat 15 (((0x7FFF : Addr).toNat + k) % 2 ^ 15) := by
  decide

theorem witness_SelftestReportsItsTally :
    (ready { extCfg with settleOk := false } []).phase = .hostDriving ∧ (0x8000 : BitVec 16).toNat ≤ 0x8000 := by
  decide +kernel

theorem witness_StuckCellCountsThree :
    let s := ready { extCfg with dev := .stuck0 0x0000 } [(5, 0x99)]
    HostReady s ∧ s.cfg.dev = .stuck0 0x0000 ∧ s.cfg.settleOk = true ∧ Memory.wf s.extMem = true ∧
      (0x8000 : BitVec 16).toNat ≤ 0x8000 ∧
      ∃ k < (0x8000 : BitVec 16).toNat, BitVec.ofNat 15 (((0x7FFF : Addr).toNat + k) % 2 ^ 15) = (0x0000 : Addr) :=
  ⟨ready_hostReady _ _, rfl, rfl, rfl, by decide, 1, by decide, by decide⟩

/-- R97 on one pattern that the stuck cell fails and on the one it passes. -/
theorem test_stuck_cell_patterns :
    let s := ready { extCfg with dev := .stuck0 0x7FFF } []
    seen State.lastRead (execAll [.latch 0x7FFF, .write 0xFF, .read] s) = some 0x00 ∧
      seen State.lastRead (execAll [.latch 0x7FFE, .write 0xFF, .read] s) = some 0xFF := by decide +kernel

theorem witness_ProgramWritesOnlyTheImage :
    let s := ready imageCfg [(2, 0x99)]
    HostReady s ∧ s.cfg.image.length ≤ 0x8000 ∧ s.cfg.dev = .ideal ∧ Memory.wf s.extMem = true ∧
      1 < s.cfg.image.length ∧ s.cfg.image.length ≤ (0x0002 : Addr).toNat :=
  ⟨ready_hostReady _ _, by decide +kernel, rfl, rfl, by decide +kernel, by decide +kernel⟩

theorem witness_VerifyReportsItsTally : (ready { imageCfg with settleOk := false } []).phase = .hostDriving := rfl

/-- With a settle time that suffices and with one that does not. -/
theorem witness_WriteOrderDoesNotMatter (ok : Bool) :
    let s := ready { imageCfg with settleOk := ok } []
    HostReady s ∧ s.cfg.image.length ≤ 0x8000 ∧ s.cfg.dev = .ideal ∧ Memory.wf s.extMem = true ∧
      [(1, 0x22), (0, 0x11)].Perm (indexedImage s.cfg.image) ∧ s.cfg.settleOk = ok :=
  ⟨ready_hostReady _ _, (by decide : 2 ≤ 0x8000), rfl, rfl, List.Perm.swap _ _ _, rfl⟩

theorem witness_EmptyImageMovesNoPin : (ready extCfg []).phase = .hostDriving ∧ (ready extCfg []).cfg.image = [] :=
  ⟨rfl, rfl⟩

theorem witness_VerdictsGateNothing :
    (ready imageCfg []).withoutVerdicts = { ready imageCfg [] with stErrors := 3, vfPass := true }.withoutVerdicts ∧
      (ready imageCfg []) ≠ { ready imageCfg [] with stErrors := 3, vfPass := true } :=
  ⟨rfl, fun h => absurd (congrArg State.vfPass h) Bool.false_ne_true⟩

theorem witness_PinStepsPerCommand :
    (∃ t, exec (.latch 0x7FFF) (ready extCfg []) = .next t) ∧ check (.latch 0x7FFF) (ready extCfg []) = .noFault ∧
      (∃ t, exec (.write 0xFF) (ready extCfg []) = .next t) ∧ check (.write 0xFF) (ready extCfg []) ≠ .noFault :=
  ⟨⟨_, rfl⟩, by decide +kernel, ⟨_, rfl⟩, by decide +kernel⟩

theorem witness_HandoffReleasesThenRuns :
    HostReady (ready extCfg []) ∧ HostReady (latchedAt 0x7FFF (ready { extCfg with handoffCtrl := .tristate } [])) :=
  ⟨ready_hostReady _ _, latchedAt_hostReady (ready_hostReady _ _) _⟩

theorem witness_ResetSequenceHoldsTheTarget :
    { Config.default with stLen := 0x8000 }.wf = true := by decide

theorem witness_HostResetAtBoundary :
    let s := { latchedAt 0x7FFF (quiet extCfg []) with hostReset := some 0 }
    Boundary s ∧ s.cfg.wf = true ∧ s.hostReset = some 0 ∧ s.tgt = .held := by
  have b := latched_boundary extCfg
  have r := hostReady_inputs (latchedAt_hostReady (hostReady_inputs (ready_hostReady extCfg []) [] none []) 0x7FFF) []
    (some 0) (latchedAt 0x7FFF (quiet extCfg [])).traceRev
  exact ⟨⟨b.notBusy, b.memWf, (⟨r.rest, r.coherent⟩ : BusRest _ ∧ AddrCoherent _), b.traceSafe, b.bootRange,
    b.faultRec⟩, rfl, rfl, rfl⟩

/-- V70.4: a host reset with the target running. -/
theorem witness_HostResetAtBoundary_running :
    let s := { handedOff (quiet extCfg []) with hostReset := some 0 }
    Boundary s ∧ s.cfg.wf = true ∧ s.hostReset = some 0 ∧ s.tgt = .running := by
  have b := handedOff_boundary extCfg rfl
  exact ⟨⟨b.notBusy, b.memWf, ⟨rfl, rfl, rfl, rfl, rfl, rfl, rfl, rfl⟩, b.traceSafe, b.bootRange, b.faultRec⟩,
    rfl, rfl, rfl⟩

/-- What a host reset inside a WRITE asks: at the first and the last place, with /WR low, and after it has risen. -/
theorem witness_HostResetInsideWrite (k : Nat) (_ : k = 1 ∨ k = 2 ∨ k = 3 ∨ k = 4 ∨ k = 5) :
    let s := { latchedAt 0x7FFF (ready extCfg []) with issuer := [0x2000_0000_0000_00FF], hostReset := some k }
    HostReady s ∧ s.writeArmed = true ∧ s.cfg.wf = true ∧ s.busy = false ∧ s.fault = false ∧
      s.cfg.cmdSource = .external ∧ decode 0x2000_0000_0000_00FF = .ok (.write 0xFF) ∧
      s.issuer = 0x2000_0000_0000_00FF :: [] ∧ s.hostReset = some k ∧ 0 < k ∧ k < 6 := by
  exact ⟨hostReady_inputs (latchedAt_hostReady (ready_hostReady extCfg []) 0x7FFF) _ _ _, rfl, rfl, rfl, rfl, rfl, by decide, rfl, rfl, by omega, by omega⟩

/-- What a host reset inside a LATCH asks: at the first place, before ALE rises, after it has fallen, at the last. -/
theorem witness_HostResetInsideLatch (k : Nat) (_ : k = 1 ∨ k = 5 ∨ k = 7 ∨ k = 8) :
    let s := { ready extCfg [] with issuer := [0x1000_0000_0000_7FFF], hostReset := some k }
    HostReady s ∧ s.cfg.wf = true ∧ s.busy = false ∧ s.fault = false ∧ s.cfg.cmdSource = .external ∧
      decode 0x1000_0000_0000_7FFF = .ok (.latch 0x7FFF) ∧ s.issuer = 0x1000_0000_0000_7FFF :: [] ∧
      s.hostReset = some k ∧ 0 < k ∧ k < 9 := by
  exact ⟨hostReady_inputs (ready_hostReady extCfg []) _ _ _, rfl, rfl, rfl, rfl, by decide, rfl, rfl, by omega, by omega⟩

/-- What a host reset inside any sequence asks: inside a VERIFY of the boot sequence, at the first and the last place,
inside an external READ with /RD low, and inside the reset sequence at the first and the last place. -/
theorem witness_HostResetInsideAnySequence_boot (k : Nat) (_ : k = 1 ∨ k = 36) :
    let s := { ready { imageCfg with cmdSource := .boot } [] with bootPc := 2, hostReset := some k }
    HostReady s ∧ s.cfg.wf = true ∧ s.busy = false ∧ s.fault = false ∧ decode 0x6000_0000_0000_0000 = .ok .verify ∧
      check .verify s = .noFault ∧ s.cfg.cmdSource = .boot ∧ s.bootPc.toNat < 4 ∧
      (bootRom s.cfg)[s.bootPc.toNat]? = some 0x6000_0000_0000_0000 ∧ s.hostReset = some k ∧ 0 < k ∧
      k < (commandActs s.cfg .verify).length := by
  have r := ready_hostReady { imageCfg with cmdSource := .boot } []
  refine ⟨⟨r.phase, ⟨r.rest.1, r.rest.2, r.rest.3, r.rest.4, r.rest.5, r.rest.6, r.rest.7, r.rest.8, r.rest.9⟩,
    ⟨r.coherent.1, r.coherent.2, r.coherent.3, r.coherent.4⟩⟩, rfl, rfl, rfl, by decide, rfl, rfl, (by decide : 2 < 4), rfl, rfl,
    by omega, ?_⟩
  have e : 37 ≤ (commandActs { imageCfg with cmdSource := .boot } .verify).length := by decide +kernel
  exact Nat.lt_of_lt_of_le (by omega) e

theorem witness_HostResetInsideAnySequence_external :
    let s := { latchedAt 0x7FFF (ready extCfg []) with issuer := [0x3000_0000_0000_0000], hostReset := some 1 }
    HostReady s ∧ s.cfg.wf = true ∧ s.busy = false ∧ s.fault = false ∧ decode 0x3000_0000_0000_0000 = .ok .read ∧
      check .read s = .noFault ∧ s.cfg.cmdSource = .external ∧ s.issuer.head? = some 0x3000_0000_0000_0000 ∧
      s.hostReset = some 1 ∧ 1 < (commandActs s.cfg .read).length :=
  ⟨hostReady_inputs (latchedAt_hostReady (ready_hostReady extCfg []) 0x7FFF) _ _ _, rfl, rfl, rfl, by decide, rfl, rfl,
    rfl, rfl, by decide⟩

theorem witness_HostResetInsideAnySequence_init (k : Nat) (_ : k = 1 ∨ k = 8) :
    let s := { State.powerOn extCfg [] 0 .running with hostReset := some k }
    Boundary s ∧ s.phase = .init ∧ s.cfg.wf = true ∧ s.hostReset = some k ∧ 0 < k ∧ k < 9 :=
  ⟨⟨rfl, rfl, (⟨rfl, rfl, rfl, rfl, rfl, rfl⟩ : _ ∧ _), fun n hn => (nomatch hn), ⟨Nat.zero_le 4, fun _ => rfl⟩,
    ⟨⟨(fun h => nomatch h), fun h => absurd rfl h⟩, fun _ => rfl⟩⟩, rfl, rfl, rfl, by omega, by omega⟩

/-- A falling edge of ALE that changes EXT_LATCH, with wires of either level, the AD wires and A14; a rising edge of /WR
that changes EXT_MEM; a rising edge of /WR over AD wires that float. -/
theorem witness_EnvironmentReactsToEdgesOnly :
    let s := runActs ((latchActs 0x407E).take 6) (ready extCfg [])
    let t := doAct (.setLine .ale false) s
    let u := runActs ((writeActs 0xFF).take 3) (latchedAt 0x7FFF (ready extCfg []))
    let w := doAct (.setLine .wrN true) u
    let f := doAct (.setLine .wrN false) (ready extCfg [])
    let g := doAct (.setLine .wrN true) f
    (t.extLatch ≠ s.extLatch ∧ aleWire s.pins s = .high ∧ aleWire t.pins s = .low ∧
      (adWires t.pins s)[0] = .low ∧ (adWires t.pins s)[6] = .high ∧
      (haWires t.pins s)[0] = .low ∧ (haWires t.pins s)[6] = .high) ∧
    (w.extMem ≠ u.extMem ∧ wrWire u.pins u = .low ∧ wrWire w.pins u = .high ∧
      ∀ i : Fin 8, (adWires w.pins u)[i] = if (0xFF : Byte)[i] then .high else .low) ∧
    wrWire f.pins f = .low ∧ wrWire g.pins f = .high ∧ (adWires g.pins f)[7] = .z := by
  decide +kernel

/-- /RESET low, rising from low, and staying high. -/
theorem witness_TargetFollowsResetLine :
    let s := ready extCfg []
    let u := handedOff s
    Act.isPinStep .wait = true ∧ (doAct .wait s).pins.resetWire = .low ∧ s.pins.resetWire = .low ∧
      (doAct (.setLine .resetN true) s).pins.resetWire = .high ∧ u.pins.resetWire = .high ∧
      (doAct .wait u).pins.resetWire = .high := by decide +kernel

theorem witness_PinStepRecordsOneSnapshot :
    Act.isPinStep .sample = true ∧ Act.isPinStep (.emit .stResult) = false ∧ Act.isPinStep (.reg .disarmed) = false := by
  decide

theorem witness_SettleFollowsWait :
    let s := ready extCfg []
    let low := doAct (.setLine .rdN false) s
    rdWire low.pins low = .low ∧ rdWire s.pins s = .high ∧ Act.isPinStep .sample = true ∧ Act.sample ≠ .wait ∧
      rdWire (doAct .sample s).pins s = .high := by decide +kernel

theorem witness_BoundaryHoldsAtReset : Memory.wf [(0, 0x99), (0x7FFF, 0x01)] = true := by decide

theorem witness_EveryStepKeepsBoundary :
    let s := latchedAt 0x7FFF (quiet extCfg [])
    Boundary s ∧ ∃ t, step s = .next t := ⟨latched_boundary _, _, rfl⟩

/-- With the target held and with the target running. -/
theorem witness_NoContentionAtBoundary :
    (Boundary (latchedAt 0x7FFF (quiet extCfg [])) ∧ (latchedAt 0x7FFF (quiet extCfg [])).tgt = .held) ∧
      Boundary (handedOff (quiet extCfg [])) ∧ (handedOff (quiet extCfg [])).tgt = .running :=
  ⟨⟨latched_boundary _, rfl⟩, handedOff_boundary _ rfl, rfl⟩

theorem witness_BootSequenceNeverFaults :
    let s := latchedAt 0x7FFF (quiet Config.default [])
    BootSound s ∧ ∃ t, step s = .next t :=
  ⟨⟨latched_boundary _, rfl, rfl, ⟨(fun h => nomatch h), (fun h => nomatch h)⟩⟩, _, rfl⟩

/-- What BootRunEndsWell and BootRunLoadsTheImage ask. -/
theorem witness_BootRun :
    let cfg := { Config.default with image := [0x80, 0xFE, 0x5A] }
    cfg.wf = true ∧ cfg.cmdSource = .boot ∧ cfg.dev = .ideal ∧ cfg.settleOk = true ∧
      Memory.wf [(0x7FFF, 0x99)] = true ∧ 2 < cfg.image.length := by decide

/-- What PhaseOnlyMovesForward, ConfigurationIsNeverWritten and RecordingsOnlyGrow ask. -/
theorem witness_AnyStep : (∃ t, step State.reset = .next t) ∧ State.reset.hostReset = none := ⟨⟨_, rfl⟩, rfl⟩

end Sys2Proof.Tests
end

section
/-! Proofs: what one step of the machine can do (43_sequencer.md R98, R99, 70_reset_and_hazards.md R122), said once: a
step is the target's turn and then one of eight turns of the block. Every invariant of a step is a case analysis over
them. -/

namespace Sys2Proof.Machine

/-! The parts of a turn. -/

/-- What acceptance of a word says of the block (R98). -/
structure Accepting (s : State) : Prop where
  pastInit : s.phase ≠ .init
  noFault  : s.fault = false
  bootLeft : s.cfg.cmdSource = .boot → s.bootPc.toNat < 4

theorem fetchWord_accepting {s : State} {w : CmdWord} (h : fetchWord s = some w) : Accepting s := by
  unfold fetchWord at h
  split at h
  case isTrue accepts =>
    obtain ⟨phase, _, fault⟩ := accepts
    refine ⟨phase, fault, fun boot => ?_⟩
    rw [boot] at h
    by_contra past
    exact nomatch (if_neg past).symm.trans h
  case isFalse => exact nomatch h

theorem cutAt_eq_some {n k : Nat} {s : State} : cutAt n s = some k ↔ s.hostReset = some k ∧ k < n := by
  unfold cutAt
  cases s.hostReset with
  | none => simp
  | some j => simp +contextual [and_comm, eq_comm]

/-- With no host reset on its way no sequence is cut. -/
theorem cutAt_none {n k : Nat} {s : State} (h : s.hostReset = none) : cutAt n s ≠ some k := fun cut =>
  nomatch h.symm.trans (cutAt_eq_some.1 cut).1

@[simp] theorem countDown_zero (s : State) : countDown 0 s = s := by simp [countDown]

/-- The checks read PHASE, WRITE_ARMED and ADDR_VALID alone (R107), which accepting a word leaves. -/
@[simp] theorem check_acceptWord (i : Instr) (s : State) : check i (acceptWord s) = check i s := by simp [check]

@[simp] theorem check_countDown (i : Instr) (n : Nat) (s : State) : check i (countDown n s) = check i s := rfl

theorem plannedActs_passed {i : Instr} {s : State} (h : check i s = .noFault) :
    plannedActs i s = commandActs s.cfg i := if_pos h

theorem plannedActs_faulted {i : Instr} {s : State} (h : check i s ≠ .noFault) : plannedActs i s = [] := if_neg h

@[simp] theorem plannedActs_acceptWord (i : Instr) (s : State) : plannedActs i (acceptWord s) = plannedActs i s := by
  simp [plannedActs]

@[simp] theorem cutAt_acceptWord (n : Nat) (s : State) : cutAt n (acceptWord s) = cutAt n s := by simp [cutAt]

/-! What the block's duty says of it. -/

/-- When a duty is the block's (R98, R121, R122). -/
def Duty.Due (s : State) : Duty → Prop
  | .hostReset => s.hostReset ≠ none
  | .initSequence => s.phase = .init
  | .command w => fetchWord s = some w
  | .idle => s.phase ≠ .init ∧ fetchWord s = none ∧ s.hostReset = none

theorem duty_due (s : State) : (duty s).Due s := by
  unfold duty
  split
  case isTrue now => simp [Duty.Due, now]
  case isFalse =>
    split
    case isTrue init => exact init
    case isFalse pastInit =>
      split
      case h_1 w fetched => exact fetched
      case h_2 nothing =>
        split
        case isTrue noReset => exact ⟨pastInit, nothing, noReset⟩
        case isFalse pending => exact pending

/-- The turns the block can take from `u` (R98, R99, R121, R122). -/
inductive BlockStep (u : State) : State → Prop where
  /-- Nothing to take, and no host reset on its way. -/
  | idle (pastInit : u.phase ≠ .init) (nothing : fetchWord u = none) (noReset : u.hostReset = none) : BlockStep u u
  /-- A host reset at the boundary itself. -/
  | hostReset (pending : u.hostReset ≠ none) : BlockStep u (takeHostReset u)
  /-- The reset sequence, cut short. -/
  | initCut (k : Nat) (init : u.phase = .init) (cut : cutAt initActs.length u = some k) :
      BlockStep u (takeHostReset (runActs (initActs.take k) u))
  /-- The whole reset sequence. -/
  | initDone (init : u.phase = .init) (uncut : cutAt initActs.length u = none) :
      BlockStep u (countDown initActs.length (runInit u))
  /-- A word that is no command. -/
  | undecodable (w : CmdWord) (e : DecodeError) (fetched : fetchWord u = some w) (decoded : decode w = .error e) :
      BlockStep u (faultWord e w (acceptWord u))
  /-- A command that a check turns away. -/
  | turnedAway (w : CmdWord) (i : Instr) (fetched : fetchWord u = some w) (decoded : decode w = .ok i)
      (refused : check i u ≠ .noFault) : BlockStep u (faulted (check i u) i (acceptWord u))
  /-- A command that a host reset abandons. -/
  | commandCut (w : CmdWord) (i : Instr) (k : Nat) (fetched : fetchWord u = some w) (decoded : decode w = .ok i)
      (passed : check i u = .noFault) (cut : cutAt (commandActs u.cfg i).length u = some k) :
      BlockStep u (takeHostReset (runActs ((commandActs u.cfg i).take k) (setBusy true (acceptWord u))))
  /-- A command that completes. -/
  | completed (w : CmdWord) (i : Instr) (fetched : fetchWord u = some w) (decoded : decode w = .ok i)
      (passed : check i u = .noFault) (uncut : cutAt (commandActs u.cfg i).length u = none) :
      BlockStep u (setBusy false (advanceBoot (releaseWork (runActs (commandActs u.cfg i)
        (setBusy true (countDown (commandActs u.cfg i).length (acceptWord u)))))))

theorem initTurn_step {u : State} (init : u.phase = .init) : BlockStep u (initTurn u) := by
  unfold initTurn
  split
  case h_1 k cut => exact .initCut k init cut
  case h_2 uncut => exact .initDone init uncut

theorem commandTurn_step {u t : State} {w : CmdWord} {i : Instr} (fetched : fetchWord u = some w)
    (decoded : decode w = .ok i) (h : commandTurn i (acceptWord u) = .next t) : BlockStep u t := by
  unfold commandTurn at h
  simp only [plannedActs_acceptWord, cutAt_acceptWord, exec_eq_runCommand] at h
  by_cases passed : check i u = .noFault
  · rw [plannedActs_passed passed] at h
    split at h
    case h_1 k cut =>
      cases h
      exact .commandCut w i k fetched decoded passed cut
    case h_2 uncut =>
      cases h
      rw [runCommand_passed (by simpa using passed), countDown_cfg, acceptWord_cfg]
      exact .completed w i fetched decoded passed uncut
  · rw [plannedActs_faulted passed] at h
    split at h
    case h_1 cut => exact absurd (cutAt_eq_some.1 cut).2 (Nat.not_lt_zero _)
    case h_2 =>
      cases h
      rw [List.length_nil, countDown_zero, runCommand_faulted (by simpa using passed), check_acceptWord]
      exact .turnedAway w i fetched decoded passed

theorem wordTurn_step {u t : State} {w : CmdWord} (fetched : fetchWord u = some w)
    (h : wordTurn w (acceptWord u) = .next t) : BlockStep u t := by
  unfold wordTurn at h
  split at h
  case h_1 i decoded => exact commandTurn_step fetched decoded h
  case h_2 e decoded =>
    cases h
    exact .undecodable w e fetched decoded

theorem blockTurn_step {u t : State} (h : blockTurn u = .next t) : BlockStep u t := by
  have due := duty_due u
  unfold blockTurn at h
  generalize duty u = d at h due
  cases d with
  | hostReset =>
    cases h
    exact .hostReset due
  | initSequence =>
    cases h
    exact initTurn_step due
  | command w => exact wordTurn_step due h
  | idle =>
    cases h
    obtain ⟨pastInit, nothing, noReset⟩ := due
    exact .idle pastInit nothing noReset

/-- A step that answers a next state is the target's turn and then one of the block's (R99, R117). -/
theorem step_cases {s t : State} (h : step s = .next t) :
    s.cfg.wf = true ∧ s.busy = false ∧ BlockStep (targetTurn s) t := by
  unfold step turn at h
  split at h
  case isFalse => exact nomatch h
  case isTrue wf =>
    split at h
    case isTrue => exact nomatch h
    case isFalse idle => exact ⟨wf, Bool.eq_false_iff.2 idle, blockTurn_step h⟩

end Sys2Proof.Machine
end

section
/-! Proofs: the configuration, the recordings, the fault record, PHASE and BOOT_PC over one step (10_state.md R21 to R25,
R45). -/

namespace Sys2Proof.Machine

/-! The configuration (R24, R35). -/

@[simp] theorem takeHostReset_cfg (s : State) : (takeHostReset s).cfg = s.cfg := rfl
@[simp] theorem runInit_cfg (s : State) : (runInit s).cfg = s.cfg := runActs_cfg _ _
@[simp] theorem faultWord_cfg (e : DecodeError) (w : CmdWord) (s : State) : (faultWord e w s).cfg = s.cfg := rfl
@[simp] theorem faulted_cfg (f : FaultCause) (i : Instr) (s : State) : (faulted f i s).cfg = s.cfg := rfl

theorem BlockStep.cfg {u t : State} (h : BlockStep u t) : t.cfg = u.cfg := by
  cases h <;> simp

/-- Settles O59: of the block's turns and the target's, none has a write to the configuration. -/
theorem configurationIsNeverWritten : Obligations.ConfigurationIsNeverWritten := by
  intro s t h
  obtain ⟨_, _, turn⟩ := step_cases h
  exact turn.cfg.trans (targetTurn_cfg s)

/-! The recordings (R45). They are stored newest first, so a recording that has grown has the old one as a suffix. -/

/-- Both recordings of `t` extend those of `s`. -/
structure RecordsExtend (s t : State) : Prop where
  trace  : s.traceRev <:+ t.traceRev
  events : s.eventsRev <:+ t.eventsRev

theorem RecordsExtend.of_eq {s t : State} (trace : t.traceRev = s.traceRev) (events : t.eventsRev = s.eventsRev) :
    RecordsExtend s t := ⟨trace ▸ List.suffix_rfl, events ▸ List.suffix_rfl⟩

theorem RecordsExtend.trans {s t u : State} (h : RecordsExtend s t) (h' : RecordsExtend t u) : RecordsExtend s u :=
  ⟨h.trace.trans h'.trace, h.events.trans h'.events⟩

/-- An entry that is no event leaves EVENTS, an event is put in front (R80). -/
theorem doAct_records (a : Act) (s : State) : RecordsExtend s (doAct a s) := by
  refine ⟨?_, ?_⟩
  · rw [doAct_traceRev]
    split
    · exact List.suffix_cons _ _
    · exact List.suffix_rfl
  · cases a with
    | emit e => exact List.suffix_cons _ _
    | reg r => cases r <;> exact List.suffix_rfl
    | setOut | setDir | setLine | wait | sample => exact List.suffix_rfl

theorem runActs_records (acts : List Act) (s : State) : RecordsExtend s (runActs acts s) :=
  runActs_induction (P := RecordsExtend s) (fun a _ h => h.trans (doAct_records a _)) acts s (.of_eq rfl rfl)

theorem takeHostReset_records (s : State) : RecordsExtend s (takeHostReset s) := .of_eq rfl rfl

theorem BlockStep.records {u t : State} (h : BlockStep u t) : RecordsExtend u t := by
  cases h with
  | idle => exact .of_eq rfl rfl
  | hostReset => exact takeHostReset_records u
  | initCut k => exact (runActs_records _ u).trans (takeHostReset_records _)
  | initDone => exact (runActs_records initActs u).trans (.of_eq rfl rfl)
  | undecodable w e => exact .of_eq (acceptWord_traceRev u) (acceptWord_eventsRev u)
  | turnedAway w i => exact .of_eq (acceptWord_traceRev u) (acceptWord_eventsRev u)
  | commandCut w i k =>
    have taken : RecordsExtend u (setBusy true (acceptWord u)) := .of_eq (by simp) (by simp)
    exact (taken.trans (runActs_records _ _)).trans (takeHostReset_records _)
  | completed w i =>
    have taken : RecordsExtend u (setBusy true (countDown (commandActs u.cfg i).length (acceptWord u))) :=
      .of_eq (by simp) (by simp)
    have ran := taken.trans (runActs_records (commandActs u.cfg i) _)
    exact ran.trans (.of_eq (by simp) (by simp))

/-- Settles O60: entries put records in front, and nothing takes one away. -/
theorem recordingsOnlyGrow : Obligations.RecordingsOnlyGrow := by
  intro s t h
  obtain ⟨_, _, turn⟩ := step_cases h
  have target : RecordsExtend s (targetTurn s) := .of_eq (targetTurn_traceRev s) (targetTurn_eventsRev s)
  obtain ⟨trace, events⟩ := target.trans turn.records
  obtain ⟨newSnapshots, trace⟩ := List.reverse_prefix.2 trace
  obtain ⟨newEvents, events⟩ := List.reverse_prefix.2 events
  exact ⟨⟨newSnapshots, trace.symm⟩, newEvents, events.symm⟩

/-! The fault record (R23, R109). -/

/-- A faulted block accepts no word (R98, R109). -/
theorem fetchWord_faulted {u : State} (h : u.fault = true) (w : CmdWord) : fetchWord u ≠ some w := fun fetched =>
  Bool.false_ne_true ((fetchWord_accepting fetched).noFault.symm.trans h)

/-- Settles O14: a faulted block accepts no word, so with no host reset on its way its turn is idle or the reset
sequence, and no entry of a sequence writes the fault record. -/
theorem firstFaultIsKept : Obligations.FirstFaultIsKept := by
  intro s t h noReset fault
  obtain ⟨_, _, turn⟩ := step_cases h
  have noReset' : (targetTurn s).hostReset = none := (targetTurn_hostReset s).trans noReset
  have noWord := fetchWord_faulted ((targetTurn_fault s).trans fault)
  cases turn with
  | idle => simp [fault]
  | hostReset pending => exact absurd noReset' pending
  | initCut k _ cut => exact absurd cut (cutAt_none noReset')
  | initDone => simp [runInit, fault]
  | undecodable w e fetched | turnedAway w i fetched | commandCut w i k fetched | completed w i fetched =>
    exact absurd fetched (noWord w)

/-! PHASE (R21). -/

/-- Only an entry that writes PHASE <- INIT can lead to INIT, and no sequence has one. -/
theorem runActs_pastInit {acts : List Act} (none : Act.reg (.phase .init) ∉ acts) {s : State} (h : s.phase ≠ .init) :
    (runActs acts s).phase ≠ .init := by
  induction acts generalizing s with
  | nil => exact h
  | cons a rest ih =>
    obtain ⟨head, tail⟩ := not_or.1 (mt List.mem_cons.2 none)
    refine ih tail ?_
    cases a with
    | reg r =>
      cases r with
      | phase p => rintro rfl; exact head rfl
      | latched | disarmed | readDone | addrCnt | patIdx | tallyClear | tallyCompare | selftestDone | programDone
      | verifyDone => exact h
    | setOut | setDir | setLine | wait | sample | emit => exact h

/-- No command's sequence has an entry `PHASE <- INIT`. -/
theorem commandActs_no_init (c : Config) (i : Instr) : Act.reg (.phase .init) ∉ commandActs c i := by
  cases i with
  | latch | write | read => simp [commandActs, latchActs, writeActs, readActs]
  | selftest start len strat =>
    cases strat <;>
      simp [commandActs, selftestActs, sweepActs, testAddrActs, testCellActs, testPatternActs, fillCellActs,
        readBackActs, latchActs, writeActs, readActs]
  | program => simp [commandActs, programActs, programByteActs, latchActs, writeActs]
  | verify => simp [commandActs, verifyActs, verifyByteActs, latchActs, readActs]
  | handoff => cases h : c.handoffCtrl <;> simp [commandActs, handoffActs, h]

/-- The code of HOST_DRIVING is the least past INIT's (R21). -/
theorem Phase.code_pos {p : Phase} (h : p ≠ .init) : Phase.code .hostDriving ≤ p.code := by
  cases p with
  | init => exact absurd rfl h
  | hostDriving | busReleased | targetRunning => decide

theorem Phase.init_code_le (p : Phase) : Phase.code .init ≤ p.code := Nat.zero_le p.code.toNat

/-- A command that passes the checks is one of HOST_DRIVING (R107). -/
theorem hostDriving_of_passed {i : Instr} {s : State} (h : check i s = .noFault) : s.phase = .hostDriving := by
  by_contra other
  exact nomatch (check_afterHandoff other i).symm.trans h

/-- Without a host reset the block's turn moves PHASE forward or leaves it. -/
theorem BlockStep.phase_le {u t : State} (h : BlockStep u t) (noReset : u.hostReset = none) :
    u.phase.code ≤ t.phase.code := by
  cases h with
  | idle => exact BitVec.le_refl _
  | hostReset pending => exact absurd noReset pending
  | initCut k _ cut => exact absurd cut (cutAt_none noReset)
  | initDone init => rw [init]; exact Phase.init_code_le _
  | undecodable | turnedAway => exact BitVec.le_of_eq (congrArg Phase.code (acceptWord_phase u).symm)
  | commandCut w i k _ _ _ cut => exact absurd cut (cutAt_none noReset)
  | completed w i fetched _ passed =>
    rw [hostDriving_of_passed passed]
    refine Phase.code_pos ?_
    simp only [setBusy_phase, advanceBoot_phase, releaseWork_phase]
    exact runActs_pastInit (commandActs_no_init u.cfg i) (by simpa using (fetchWord_accepting fetched).pastInit)

/-- Settles O58: the reset sequence leaves INIT, and a command that runs starts in HOST_DRIVING and never writes INIT. -/
theorem phaseOnlyMovesForward : Obligations.PhaseOnlyMovesForward := by
  intro s t h noReset
  obtain ⟨_, _, turn⟩ := step_cases h
  have le := turn.phase_le ((targetTurn_hostReset s).trans noReset)
  rw [targetTurn_phase] at le
  exact le

/-! BOOT_PC (R25). -/

/-- Settles O13: a command that passes its checks completes and ends with `advanceBoot`; the fault entry leaves
BOOT_PC. -/
theorem bootPcAdvancesOnCompletion : Obligations.BootPcAdvancesOnCompletion := by
  intro i s t h
  rw [exec_eq_runCommand] at h
  cases h
  by_cases passed : check i s = .noFault
  · rw [runCommand_passed passed]
    cases source : s.cfg.cmdSource <;> simp [bootPcAfter, source, passed]
  · rw [runCommand_faulted passed, if_neg (fun ⟨_, p⟩ => passed p)]
    rfl

end Sys2Proof.Machine
end

section
/-! Proofs: the boundary invariant at reset and over one step (10_state.md R20 to R25, 70_reset_and_hazards.md R125 to
R133). A snapshot is new in one of three ways: the reset sequence and HANDOFF are checked entry by entry, every other
command runs from a quiet bus to a quiet bus. -/

namespace Sys2Proof.Machine

/-! Snapshots of a host that does not drive AD. -/

/-- The trace shows no hazard. -/
def State.TraceSafe (s : State) : Prop := ∀ n ∈ s.traceRev, n.Safe

/-- A snapshot with AD released and no strobe active shows a hazard only by contention or with HA driven late. -/
theorem safe_of_noStrobe {n : Snapshot} (ad : n.pins.adDir = .idle) (strobes : n.pins.activeStrobes = 0)
    (high : n.pins.resetWire = .high → n.pins.haDir = .idle) (clean : ¬ n.pins.Starting → Line.contention ∉ n.ad) :
    n.Safe where
  oneStrobe := strobes.trans_le (Nat.zero_le 1)
  readUndriven _ := ad
  noContention := clean
  releasedFirst h := ⟨ad, high h⟩
  strobeHeld some := absurd strobes some.ne'

/-- In the reset sequence's first steps every other host line floats, and contention is not spoken of (R123). -/
theorem safe_of_starting {p : Pins} (h : p.Starting) (ad : Wires 8) : Snapshot.Safe ⟨p, ad⟩ := by
  have floating : p.adDir = .idle ∧ p.activeStrobes = 0 ∧ p.haDir = .idle := by
    rcases h with rfl | rfl <;> decide
  obtain ⟨adIdle, strobes, haIdle⟩ := floating
  exact safe_of_noStrobe adIdle strobes (fun _ => haIdle) (fun late => absurd h late)

/-- With AD released, no strobe active and the target held, the memory device is AD's only possible driver. -/
theorem safe_of_released {p : Pins} {s : State} (held : s.tgt = .held) (ad : p.adDir = .idle)
    (strobes : p.activeStrobes = 0) (high : p.resetWire = .high → p.haDir = .idle) :
    Snapshot.Safe ⟨p, adWires p s⟩ := by
  refine safe_of_noStrobe ad strobes high fun _ => ?_
  rw [adWires_idle_held ad held]
  split
  · exact Wires.level_clean _
  · exact Wires.z_clean

/-- Every snapshot that a sequence adds is safe. -/
def ActsSafe : List Act → State → Prop
  | [], _ => True
  | a :: rest, s =>
    (a.isPinStep = true → Snapshot.Safe ⟨(doAct a s).pins, adWires (doAct a s).pins s⟩) ∧ ActsSafe rest (doAct a s)

theorem runActs_traceSafe {acts : List Act} {s : State} (new : ActsSafe acts s) (old : s.TraceSafe) :
    (runActs acts s).TraceSafe := by
  induction acts generalizing s with
  | nil => exact old
  | cons a rest ih =>
    obtain ⟨first, later⟩ := new
    refine ih later ?_
    intro n hn
    rw [doAct_traceRev] at hn
    split at hn
    case isTrue pinStep =>
      rcases List.mem_cons.1 hn with rfl | hn
      · exact first pinStep
      · exact old n hn
    case isFalse => exact old n hn

/-- A sequence cut short is as safe as the whole. -/
theorem State.TraceSafe.take {acts : List Act} {s : State} (h : (runActs acts s).TraceSafe) (k : Nat) :
    (runActs (acts.take k) s).TraceSafe := fun n hn => h n (runActs_take_trace acts k s n hn)

/-! The reset sequence (R121). -/

theorem initActs_safe {s : State} (h : s.pins = Pins.atReset) : ActsSafe initActs s := by
  obtain ⟨cfg, pins⟩ := s
  subst h
  exact ⟨fun _ => safe_of_starting (.inl rfl) _, fun _ => safe_of_starting (.inr rfl) _,
    fun _ => safe_of_starting (.inr rfl) _, fun _ => safe_of_released rfl rfl rfl nofun,
    fun _ => safe_of_released rfl rfl rfl nofun, fun _ => safe_of_released rfl rfl rfl nofun,
    fun _ => safe_of_released rfl rfl rfl nofun, fun _ => safe_of_released rfl rfl rfl nofun, nofun, trivial⟩

@[simp] theorem runInit_phase (s : State) : (runInit s).phase = .hostDriving := rfl

/-- After the reset sequence no address is latched and HA is released (R46). -/
theorem runInit_coherent {s : State} (h : s.pins = Pins.atReset) (valid : s.addrValid = false)
    (armed : s.writeArmed = false) : AddrCoherent (runInit s) := by
  obtain ⟨cfg, pins⟩ := s
  simp only at h valid armed
  subst h valid armed
  exact ⟨⟨nofun, nofun⟩, nofun, nofun, nofun⟩

/-! HANDOFF (R102). -/

theorem handoffActs_safe {s : State} (h : BusRest s) (ctrl : HandoffCtrl) : ActsSafe (handoffActs ctrl) s := by
  obtain ⟨cfg, ⟨adOut, adDir, ahOut, a14Out, haDir, aleOut, wrNOut, rdNOut, resetNOut, ctrlDir, rstDir⟩⟩ := s
  obtain ⟨h1, h2, h3, h4, h5, h6, h7, h8, h9⟩ := h
  simp only at h1 h2 h3 h4 h5 h6 h7 h8 h9
  subst h1 h2 h3 h4 h5 h6 h7 h8 h9
  cases ctrl with
  | keepDriven =>
    exact ⟨fun _ => safe_of_released rfl rfl rfl nofun, nofun, fun _ => safe_of_released rfl rfl rfl fun _ => rfl,
      nofun, trivial⟩
  | tristate =>
    exact ⟨fun _ => safe_of_released rfl rfl rfl nofun, nofun, fun _ => safe_of_released rfl rfl rfl nofun,
      fun _ => safe_of_released rfl rfl rfl fun _ => rfl, nofun, trivial⟩

/-- HANDOFF leaves the shape of TARGET_RUNNING (R20, R102). -/
theorem runActs_handoff_shape {s : State} (h : BusRest s) (ctrl : HandoffCtrl) :
    PhaseShape (runActs (handoffActs ctrl) s) := by
  obtain ⟨cfg, ⟨adOut, adDir, ahOut, a14Out, haDir, aleOut, wrNOut, rdNOut, resetNOut, ctrlDir, rstDir⟩⟩ := s
  obtain ⟨h1, h2, h3, h4, h5, h6, h7, h8, h9⟩ := h
  simp only at h1 h2 h3 h4 h5 h6 h7 h8 h9
  subst h1 h2 h3 h4 h5 h6 h7 h8 h9
  cases ctrl <;> exact ⟨rfl, rfl, rfl, rfl, rfl, rfl, rfl, rfl⟩

/-! What of a state the shape of a boundary reads. -/

/-- The two states agree on PHASE, the pins, the record of the address and the environment of the bus. -/
structure SameBus (s t : State) : Prop where
  phase       : t.phase = s.phase
  pins        : t.pins = s.pins
  latchedAddr : t.latchedAddr = s.latchedAddr
  addrValid   : t.addrValid = s.addrValid
  writeArmed  : t.writeArmed = s.writeArmed
  extLatch    : t.extLatch = s.extLatch
  tgt         : t.tgt = s.tgt
  rdSettled   : t.rdSettled = s.rdSettled

theorem SameBus.rest {s t : State} (b : SameBus s t) (h : BusRest s) : BusRest t :=
  ⟨b.pins ▸ h.adIdle, b.pins ▸ h.aleLow, b.pins ▸ h.wrHigh, b.pins ▸ h.rdHigh, b.pins ▸ h.resetLow,
    b.pins ▸ h.ctrlDriven, b.pins ▸ h.rstDriven, b.tgt.trans h.held, b.rdSettled.trans h.unsettled⟩

theorem SameBus.coherent {s t : State} (b : SameBus s t) (h : AddrCoherent s) : AddrCoherent t where
  haDriven := by rw [b.pins, b.addrValid]; exact h.haDriven
  latchIs := by rw [b.addrValid, b.extLatch, b.latchedAddr]; exact h.latchIs
  highPins := by rw [b.addrValid, b.pins, b.latchedAddr]; exact h.highPins
  armedIs := by rw [b.writeArmed, b.addrValid]; exact h.armedIs

theorem SameBus.hostReady {s t : State} (b : SameBus s t) (h : HostReady s) : HostReady t :=
  ⟨b.phase.trans h.phase, b.rest h.rest, b.coherent h.coherent⟩

/-- Past INIT the shape of a boundary reads nothing else. -/
theorem SameBus.shape {s t : State} (b : SameBus s t) (pastInit : s.phase ≠ .init) (h : PhaseShape s) :
    PhaseShape t := by
  unfold PhaseShape at h ⊢
  rw [b.phase]
  split at h
  case h_1 init => exact absurd init pastInit
  case h_2 =>
    obtain ⟨rest, coherent⟩ := h
    exact ⟨b.rest rest, b.coherent coherent⟩
  case h_3 => exact h
  case h_4 => rwa [b.pins, b.tgt]

/-- The countdown of a host reset is no part of the bus. -/
theorem sameBus_countDown (n : Nat) (s : State) : SameBus s (countDown n s) := ⟨rfl, rfl, rfl, rfl, rfl, rfl, rfl, rfl⟩

/-- Taking a word and setting BUSY is no bus activity. -/
theorem sameBus_entered (n : Nat) (s : State) : SameBus s (setBusy true (countDown n (acceptWord s))) := by
  constructor <;> simp

/-- Nor is what follows a command's sequence. -/
theorem sameBus_completed (s : State) : SameBus s (setBusy false (advanceBoot (releaseWork s))) := by
  constructor <;> simp

/-- Nor is a fault entry (R108). -/
theorem sameBus_faultEntry (f : FaultCause) (w : CmdWord) (s : State) :
    SameBus s (setBusy false (faultEntry f w (setBusy true (acceptWord s)))) := by
  constructor <;> simp

/-! The parts of the boundary invariant by phase. -/

theorem Boundary.atInit {s : State} (h : Boundary s) (init : s.phase = .init) :
    s.pins = Pins.atReset ∧ s.addrValid = false ∧ s.writeArmed = false ∧ s.fault = false ∧ s.bootPc = 0
      ∧ s.rdSettled = false := by
  have shape := h.shape
  unfold PhaseShape at shape
  rwa [init] at shape

/-- A boundary in HOST_DRIVING is one at which the host owns the bus (R20). -/
theorem Boundary.hostReady {s : State} (h : Boundary s) (phase : s.phase = .hostDriving) : HostReady s := by
  have shape := h.shape
  unfold PhaseShape at shape
  rw [phase] at shape
  obtain ⟨rest, coherent⟩ := shape
  exact ⟨phase, rest, coherent⟩

theorem phaseShape_hostDriving {s : State} (phase : s.phase = .hostDriving) (rest : BusRest s)
    (coherent : AddrCoherent s) : PhaseShape s := by
  unfold PhaseShape
  rw [phase]
  exact ⟨rest, coherent⟩

/-! At reset. -/

theorem powerOn_boundary (cfg : Config) {mem : Memory} (h : Memory.wf mem = true) (latch : Addr) (tgt : Target) :
    Boundary (State.powerOn cfg mem latch tgt) where
  notBusy := rfl
  memWf := h
  shape := ⟨rfl, rfl, rfl, rfl, rfl, rfl⟩
  traceSafe := fun _ hn => nomatch hn
  bootRange := ⟨Nat.zero_le 4, fun _ => rfl⟩
  faultRec := ⟨⟨nofun, fun none => absurd rfl none⟩, fun _ => rfl⟩

/-- Settles O52: the block's part is R46's column "at reset", and nothing is recorded yet. -/
theorem boundaryHoldsAtReset : Obligations.BoundaryHoldsAtReset :=
  ⟨powerOn_boundary Config.default reset_memory_wf 0x0000 .held,
    fun cfg _ latch tgt wf => powerOn_boundary cfg wf latch tgt⟩

/-- A host reset leaves a boundary wherever it falls: of the state before it, only the memory and the trace count. -/
theorem takeHostReset_boundary {s : State} (wf : Memory.wf s.extMem = true) (safe : s.TraceSafe) :
    Boundary (takeHostReset s) :=
  have block := powerOn_boundary s.cfg (memAtReset_wf wf) (latchAtReset s) (Config.freeTarget s.drawCount)
  ⟨block.notBusy, block.memWf, block.shape, safe, block.bootRange, block.faultRec⟩

/-! The block's turns. -/

/-- A running target's turn moves only the environment, and only where the shape does not speak of it. -/
theorem targetTurn_boundary {s : State} (h : Boundary s) : Boundary (targetTurn s) where
  notBusy := (targetTurn_busy s).trans h.notBusy
  memWf := targetTurn_wf h.memWf
  shape := by
    cases target : s.tgt with
    | held => rw [targetTurn_held target]; exact h.shape
    | running =>
      have shape := h.shape
      unfold PhaseShape at shape ⊢
      rw [targetTurn_phase]
      split at shape
      case h_1 init => rwa [targetTurn_init init]
      case h_2 => exact nomatch shape.1.held.symm.trans target
      case h_3 => exact shape
      case h_4 => rwa [targetTurn_pins, targetTurn_tgt]
  traceSafe := by rw [targetTurn_traceRev]; exact h.traceSafe
  bootRange := by rw [targetTurn_bootPc, targetTurn_cfg]; exact h.bootRange
  faultRec := by rw [targetTurn_fault, targetTurn_faultCause, targetTurn_faultCmd]; exact h.faultRec

theorem initActs_traceSafe {u : State} (h : Boundary u) (init : u.phase = .init) :
    (runActs initActs u).TraceSafe :=
  runActs_traceSafe (initActs_safe (h.atInit init).1) h.traceSafe

theorem runInit_boundary {u : State} (h : Boundary u) (init : u.phase = .init) :
    Boundary (countDown initActs.length (runInit u)) := by
  obtain ⟨pins, valid, armed, _, _, unsettled⟩ := h.atInit init
  have ready : HostReady (runInit u) :=
    ⟨runInit_phase u, runInit_rest u pins unsettled, runInit_coherent pins valid armed⟩
  have counted := (sameBus_countDown initActs.length (runInit u)).hostReady ready
  exact {
    notBusy := (runActs_busy initActs u).trans h.notBusy
    memWf := by rw [countDown_extMem]; exact runActs_wf initActs u h.memWf
    shape := phaseShape_hostDriving counted.phase counted.rest counted.coherent
    traceSafe := by rw [countDown_traceRev]; exact initActs_traceSafe h init
    bootRange := by simpa [runInit] using h.bootRange
    faultRec := by simpa [runInit] using h.faultRec }

/-- A fault entry at a boundary past INIT (R108). -/
theorem faultEntry_boundary {u : State} (h : Boundary u) (pastInit : u.phase ≠ .init) {f : FaultCause}
    (hf : f ≠ .noFault) (w : CmdWord) : Boundary (setBusy false (faultEntry f w (setBusy true (acceptWord u)))) where
  notBusy := rfl
  memWf := by simpa using h.memWf
  shape := (sameBus_faultEntry f w u).shape pastInit h.shape
  traceSafe := by simpa using h.traceSafe
  bootRange := by simpa using h.bootRange
  faultRec := ⟨⟨fun _ => hf, fun _ => rfl⟩, nofun⟩

theorem causeOf_ne_noFault (e : DecodeError) : causeOf e ≠ .noFault := by cases e <;> exact nofun

/-- A command's whole sequence leaves the shape of its phase and a safe trace. -/
theorem commandActs_shape_traceSafe {s : State} (ready : HostReady s) (safe : s.TraceSafe) (i : Instr) :
    PhaseShape (runActs (commandActs s.cfg i) s) ∧ (runActs (commandActs s.cfg i) s).TraceSafe := by
  by_cases hi : i = .handoff
  · subst hi
    exact ⟨runActs_handoff_shape ready.rest _, runActs_traceSafe (handoffActs_safe ready.rest _) safe⟩
  · have quiet := quiet_command hi (s := s) ⟨ready.phase, ready.rest, ready.coherent, safe⟩
    exact ⟨phaseShape_hostDriving quiet.phase quiet.rest quiet.coherent, quiet.safe⟩

/-- R25's range is kept where the boot sequence had a command left. -/
theorem bootPcAfter_range {s : State} (left : s.cfg.cmdSource = .boot → s.bootPc.toNat < 4)
    (external : s.cfg.cmdSource = .external → s.bootPc = 0) :
    (bootPcAfter s).toNat ≤ 4 ∧ (s.cfg.cmdSource = .external → bootPcAfter s = 0) := by
  unfold bootPcAfter
  cases source : s.cfg.cmdSource with
  | boot =>
    have := left source
    refine ⟨?_, nofun⟩
    bv_omega
  | external => simp [external source]

/-- A completed command leaves a boundary (R99). -/
theorem completed_boundary {s : State} (ready : HostReady s) (wf : Memory.wf s.extMem = true) (safe : s.TraceSafe)
    (left : s.cfg.cmdSource = .boot → s.bootPc.toNat < 4) (external : s.cfg.cmdSource = .external → s.bootPc = 0)
    (faultRec : (s.fault = true ↔ s.faultCause ≠ .noFault) ∧ (s.fault = false → s.faultCmd = 0)) (i : Instr) :
    Boundary (setBusy false (advanceBoot (releaseWork (runActs (commandActs s.cfg i) s)))) where
  notBusy := rfl
  memWf := by simpa using runActs_wf (commandActs s.cfg i) s wf
  shape :=
    (sameBus_completed _).shape
      (runActs_pastInit (commandActs_no_init s.cfg i) (by rw [ready.phase]; exact nofun))
      (commandActs_shape_traceSafe ready safe i).1
  traceSafe := by simpa [State.TraceSafe] using (commandActs_shape_traceSafe ready safe i).2
  bootRange := by simpa [bootPcAfter] using bootPcAfter_range left external
  faultRec := by simpa using faultRec

/-- Each of the block's turns leads from boundary to boundary. -/
theorem BlockStep.boundary {u t : State} (turn : BlockStep u t) (h : Boundary u) : Boundary t := by
  cases turn with
  | idle => exact h
  | hostReset => exact takeHostReset_boundary h.memWf h.traceSafe
  | initCut k init =>
    exact takeHostReset_boundary (runActs_wf _ _ h.memWf) ((initActs_traceSafe h init).take k)
  | initDone init => exact runInit_boundary h init
  | undecodable w e fetched =>
    exact faultEntry_boundary h (fetchWord_accepting fetched).pastInit (causeOf_ne_noFault e) w
  | turnedAway w i fetched _ refused =>
    exact faultEntry_boundary h (fetchWord_accepting fetched).pastInit refused (encode i)
  | commandCut w i k _ _ passed =>
    have ready := (sameBus_entered 0 u).hostReady (h.hostReady (hostDriving_of_passed passed))
    have whole := commandActs_shape_traceSafe ready (by simpa [State.TraceSafe] using h.traceSafe) i
    simp only [countDown_zero, setBusy_cfg, acceptWord_cfg] at whole
    exact takeHostReset_boundary (runActs_wf _ _ (by simpa using h.memWf)) (whole.2.take k)
  | completed w i fetched _ passed =>
    have ready :=
      (sameBus_entered (commandActs u.cfg i).length u).hostReady (h.hostReady (hostDriving_of_passed passed))
    have left := completed_boundary ready (by simpa using h.memWf) (by simpa [State.TraceSafe] using h.traceSafe)
      (by simpa using (fetchWord_accepting fetched).bootLeft) (by simpa using h.bootRange.2)
      (by simpa using h.faultRec) i
    simpa using left

/-- Settles O53: the invariant is kept by the target's turn and by each of the block's turns. -/
theorem everyStepKeepsBoundary : Obligations.EveryStepKeepsBoundary := by
  intro s t h stepped
  obtain ⟨_, _, turn⟩ := step_cases stepped
  exact turn.boundary (targetTurn_boundary h)

end Sys2Proof.Machine
end

section
/-! Proofs: the status register map (10_state.md R37 to R40) and the values at reset (R46). A register is an OR of fields;
reading a field back is a fact about one field, and every other field of the register is 0 there. -/

namespace Sys2Proof.Machine

/-! One field of a register. -/

/-- Bit `i` of a field placed at bit `k`. -/
theorem statusField_getLsbD {n : Nat} (v : BitVec n) (k i : Nat) :
    (statusField v k).getLsbD i = (decide (i < 32) && decide (k ≤ i) && v.getLsbD (i - k)) := by
  rw [statusField, BitVec.getLsbD_shiftLeft, BitVec.getLsbD_setWidth]
  rcases Nat.lt_or_ge i k with below | above
  · simp [below]
  · by_cases inside : i < 32
    · simp [above, inside, Nat.not_lt.2 above, show i - k < 32 by omega]
    · simp [inside]

@[simp] theorem statusField_getElem {n : Nat} (v : BitVec n) (k i : Nat) (h : i < 32) :
    (statusField v k)[i] = (decide (k ≤ i) && v.getLsbD (i - k)) := by
  rw [← BitVec.getLsbD_eq_getElem h, statusField_getLsbD, decide_eq_true h, Bool.true_and]

@[simp] theorem statusBit_getElem (b : Bool) (k i : Nat) (h : i < 32) :
    (statusBit b k)[i] = (decide (i = k) && b) := by
  rw [statusBit, statusField_getElem]
  rcases Nat.lt_trichotomy i k with below | rfl | above
  · simp [show ¬ k ≤ i by omega, below.ne]
  · simp
  · simp [above.ne', BitVec.getLsbD_of_ge (BitVec.ofBool b) (i - k) (by omega)]

/-- A field reads back whole. -/
@[simp] theorem statusField_extract_same {n k : Nat} (v : BitVec n) (h : k + n ≤ 32) :
    (statusField v k).extractLsb' k n = v := by
  ext i hi
  rw [BitVec.getElem_extractLsb', statusField_getLsbD, ← BitVec.getLsbD_eq_getElem hi]
  simp [show k + i < 32 by omega]

/-- Below and above it a field is 0. -/
@[simp] theorem statusField_extract_other {n k : Nat} (v : BitVec n) {j m : Nat} (h : j + m ≤ k ∨ k + n ≤ j) :
    (statusField v k).extractLsb' j m = 0#m := by
  ext i hi
  rw [BitVec.getElem_extractLsb', statusField_getLsbD, BitVec.getElem_zero]
  rcases h with below | above
  · simp [show ¬ k ≤ j + i by omega]
  · simp [BitVec.getLsbD_of_ge v (j + i - k) (by omega)]

@[simp] theorem statusBit_extract_other {b : Bool} {k j m : Nat} (h : j + m ≤ k ∨ k + 1 ≤ j) :
    (statusBit b k).extractLsb' j m = 0#m := statusField_extract_other _ h

/-- What is read of an OR is the OR of what is read. -/
@[simp] theorem status_extract_or (v w : Count) (j m : Nat) :
    (v ||| w).extractLsb' j m = v.extractLsb' j m ||| w.extractLsb' j m := BitVec.extractLsb'_or

@[simp] theorem cmdSourceBit_eq_true {c : CmdSource} : cmdSourceBit c = true ↔ c = .external := by
  cases c <;> decide

@[simp] theorem handoffCtrlBit_eq_true {c : HandoffCtrl} : handoffCtrlBit c = true ↔ c = .tristate := by
  cases c <;> decide

@[simp] theorem Role.bit_eq_true {r : Role} : r.bit = true ↔ r = .driving := by
  cases r <;> decide

/-! The registers. -/

theorem statusReg_status (s : State) : statusReg s 0 = statusWord s := rfl
theorem statusReg_pins (s : State) : statusReg s 1 = pinsWord s.pins := rfl

theorem statusWord_phase (s : State) : (statusWord s).extractLsb' 0 2 = s.phase.code := by simp [statusWord]

theorem statusWord_faultCause (s : State) : (statusWord s).extractLsb' 4 4 = s.faultCause.code := by simp [statusWord]

/-- Settles O49: each one-bit field and the reserved bits by the rules of one field, the two codes by their tables. -/
theorem statusRegisterFields : Obligations.StatusRegisterFields := by
  intro s
  simp only [statusReg_status]
  refine ⟨?_, ?_, ?_⟩
  · rw [statusWord_phase]
    cases s.phase <;> rfl
  · rw [statusWord_faultCause]
    cases s.faultCause <;> rfl
  · simp [statusWord]

/-- Settles O50, by the rules of one field. -/
theorem pinsRegisterFields : Obligations.PinsRegisterFields := by
  intro s
  simp only [statusReg_pins]
  simp [pinsWord]

/-- The two halves of FAULT_CMD make it up again (R40). -/
theorem faultCmd_halves (w : CmdWord) :
    (w.extractLsb' 32 32 ++ w.extractLsb' 0 32 : BitVec (32 + 32)) = w := by
  ext i h
  rw [BitVec.getElem_append]
  split
  · simp [BitVec.getLsbD_eq_getElem h]
  · simp [show 32 + (i - 32) = i by omega, BitVec.getLsbD_eq_getElem h]

/-- Settles O51, register by register. -/
theorem remainingStatusRegisters : Obligations.RemainingStatusRegisters := by
  intro s
  have latched : statusReg s 0x2 = statusField s.latchedAddr 0 := rfl
  have lastRead : statusReg s 0x3 = statusField s.lastRead 0 := rfl
  have length : statusReg s 0xA = statusField (imageLen s.cfg) 0 := rfl
  have bootPc : statusReg s 0xD = statusField s.bootPc 0 := rfl
  rw [latched, lastRead, length, bootPc]
  refine ⟨by simp, by simp, by simp, by simp, rfl, rfl, rfl, rfl, rfl, rfl, ?_, by simp, faultCmd_halves s.faultCmd,
    by simp, by simp, rfl, rfl⟩
  exact statusField_extract_same _ (by decide)

/-! At reset (R46). -/

theorem pinsWord_atReset : pinsWord Pins.atReset = 0 := by decide

/-- Settles O39: every element of the block is written out in `State.powerOn`; PINS is computed. -/
theorem resetHoldsTheSpecsValues : Obligations.ResetHoldsTheSpecsValues := by
  intro cfg mem latch tgt
  refine ⟨pinsWord_atReset, ?_⟩
  and_intros <;> rfl

end Sys2Proof.Machine
end

section
/-! Proofs: the environment's reaction to the wires (20_memory.md R55, R58, R59) and the wires' drivers at a command
boundary (R56, 70_reset_and_hazards.md R133, R134). Both argue on one wire at a time: a capture by its bits, contention
by its drivers. -/

namespace Sys2Proof.Machine

/-! The reaction of one entry. An entry that is no pin step moves no line, which is no edge, so the rule of a pin step
holds of every entry. -/

/-- A host line of ALE that does not move leaves the latch (R58). -/
theorem latchAfter_of_aleLine_eq {before after : Pins} (h : before.aleLine = after.aleLine) (s : State) :
    latchAfter before after s = s.extLatch := if_pos h

/-- A host line of /WR that does not move leaves the memory (R59). -/
theorem memAfter_of_wrLine_eq {before after : Pins} (h : before.wrLine = after.wrLine) (s : State) :
    memAfter before after s = s.extMem := if_pos h

/-- The latch after any entry (R58, R74). -/
theorem doAct_extLatch (a : Act) (s : State) : (doAct a s).extLatch = latchAfter s.pins (doAct a s).pins s := by
  cases a with
  | setOut | setDir | setLine | wait | sample => rfl
  | emit e => exact (latchAfter_of_aleLine_eq rfl s).symm
  | reg r => cases r <;> exact (latchAfter_of_aleLine_eq rfl s).symm

/-- The memory after any entry (R59, R74). -/
theorem doAct_extMem (a : Act) (s : State) : (doAct a s).extMem = memAfter s.pins (doAct a s).pins s := by
  cases a with
  | setOut | setDir | setLine | wait | sample => rfl
  | emit e => exact (memAfter_of_wrLine_eq rfl s).symm
  | reg r => cases r <;> exact (memAfter_of_wrLine_eq rfl s).symm

/-- Only a falling edge of ALE changes the latch (R58). -/
theorem edge_of_latchAfter_ne {before after : Pins} {s : State} (h : latchAfter before after s ≠ s.extLatch) :
    aleWire before s = .high ∧ aleWire after s = .low := by
  unfold latchAfter at h
  split at h
  case isTrue => exact absurd rfl h
  case isFalse =>
    split at h
    case h_1 high low => exact ⟨high, low⟩
    case h_2 => exact absurd rfl h

/-- Only a rising edge of /WR changes the memory (R59). -/
theorem edge_of_memAfter_ne {before after : Pins} {s : State} (h : memAfter before after s ≠ s.extMem) :
    wrWire before s = .low ∧ wrWire after s = .high := by
  unfold memAfter at h
  split at h
  case isTrue => exact absurd rfl h
  case isFalse =>
    split at h
    case h_1 low high => exact ⟨low, high⟩
    case h_2 => exact absurd rfl h

/-! What a capture takes (R58). -/

/-- The AD wires give the low byte of an address. -/
theorem joinAddr_getLsbD_ad (ha : BitVec 7) (ad : Byte) (i : Fin 8) : (joinAddr ha ad).getLsbD i = ad[i] :=
  BitVec.getLsbD_append.trans (by simp)

/-- The AH and A14 wires give the bits above it. -/
theorem joinAddr_getLsbD_ha (ha : BitVec 7) (ad : Byte) (i : Fin 7) : (joinAddr ha ad).getLsbD (8 + i) = ha[i] :=
  BitVec.getLsbD_append.trans (by simp)

/-- A wire with a level is captured with it. -/
theorem Wires.taken_of_level {w : Nat} {ws : Wires w} {i : Fin w} {level : Bool}
    (h : ws[i] = if level then .high else .low) (free : BitVec w) : (ws.taken free)[i] = level := by
  rw [Fin.getElem_fin] at h ⊢
  rw [Wires.taken_getElem, h]
  cases level <;> rfl

/-! What a commit stores (R59). -/

/-- Wires that all have the levels of a byte carry that byte. -/
theorem Wires.eq_level {w : Nat} {ws : Wires w} {v : BitVec w}
    (h : ∀ i : Fin w, ws[i] = if v[i] then .high else .low) : ws = .level v :=
  Vector.ext fun i hi => (h ⟨i, hi⟩).trans (Wires.level_getElem v hi).symm

/-- Where a wire has no level, the commit leaves some byte in the latched cell and asks the device for no store
(U15). -/
theorem committed_of_no_level {ad : Wires 8} {i : Fin 8} (h : ad[i] = .z ∨ ad[i] = .contention) (s : State) :
    ∃ b, committed ad s = Memory.write s.extMem s.extLatch b := by
  have noLevel : ad[i].level? = none := by rcases h with h | h <;> rw [h] <;> rfl
  refine ⟨Config.freeCommit s.drawCount, ?_⟩
  rw [committed, Wires.value?_eq_none i.isLt noLevel]

/-- Settles O45: every entry reacts by `latchAfter` and `memAfter`, which move only at their edges; there a capture goes
wire by wire, and a commit by whether every AD wire has a level. -/
theorem environmentReactsToEdgesOnly : Obligations.EnvironmentReactsToEdgesOnly := by
  intro a s t
  have latch : t.extLatch = latchAfter s.pins t.pins s := doAct_extLatch a s
  have mem : t.extMem = memAfter s.pins t.pins s := doAct_extMem a s
  refine ⟨fun changed => edge_of_latchAfter_ne (latch ▸ changed),
    fun changed => edge_of_memAfter_ne (mem ▸ changed), fun high low level => ?_, fun low high => ?_⟩
  · rw [latch, latchAfter_edge high low]
    exact ⟨fun i wire => (joinAddr_getLsbD_ad _ _ i).trans (Wires.taken_of_level wire _),
      fun i wire => (joinAddr_getLsbD_ha _ _ i).trans (Wires.taken_of_level wire _)⟩
  · rw [mem, memAfter_edge low high]
    refine ⟨fun v levels => ?_, fun ⟨i, noLevel⟩ => committed_of_no_level noLevel s⟩
    rw [Wires.eq_level levels, committed_level]

/-! The wires at a command boundary. -/

/-- At a boundary the host does not drive AD (R20, R134), and it drives the high address pins only while it holds the
target (R104, R132). -/
theorem PhaseShape.released {s : State} (h : PhaseShape s) :
    s.pins.adDir = .idle ∧ (s.pins.haDir = .idle ∨ s.tgt = .held) := by
  unfold PhaseShape at h
  split at h
  case h_1 =>
    obtain ⟨atReset, _⟩ := h
    rw [atReset]
    exact ⟨rfl, .inl rfl⟩
  case h_2 =>
    obtain ⟨rest, _⟩ := h
    exact ⟨rest.adIdle, .inr rest.held⟩
  case h_3 => exact h.elim
  case h_4 =>
    obtain ⟨adIdle, haIdle, _⟩ := h
    exact ⟨adIdle, .inl haIdle⟩

/-- With the host or the target off the high address wires, each has at most one driver (R55). -/
theorem haWires_clean {p : Pins} {s : State} (h : p.haDir = .idle ∨ s.tgt = .held) :
    Line.contention ∉ haWires p s := by
  rw [Wires.contention_mem]
  rintro ⟨i, hi, contended⟩
  rw [haWires_getElem, haDrivers] at contended
  rcases h with idle | held
  · rw [idle] at contended
    exact resolve_targetDrives_ne_contention _ s contended
  · rw [targetDrives_held held, List.append_nil] at contended
    exact lineOf_ne_contention _ _ contended

/-- A target that drives a wire runs (R116) and has a level for it. -/
theorem targetDrives_ne_nil {drive : Option Bool} {s : State} (h : targetDrives drive s ≠ []) :
    s.tgt = .running ∧ drive.isSome = true := by
  cases target : s.tgt with
  | held => exact absurd (targetDrives_held target drive) h
  | running =>
    cases drive with
    | none => exact absurd (by rw [targetDrives, target]; rfl) h
    | some level => exact ⟨rfl, rfl⟩

/-- With the host off AD, a contended AD wire is driven by the memory device and by the target (R55, R60, R117). -/
theorem adWire_contended {p : Pins} {s : State} (idle : p.adDir = .idle) {i : Fin 8}
    (h : (adWires p s)[i] = .contention) :
    s.tgt = .running ∧ rdLow p s = true ∧ (Config.targetAD s.drawCount i).isSome = true := by
  rw [Fin.getElem_fin, adWires_getElem, adDrivers, idle] at h
  have device : rdLow p s = true := by
    by_contra high
    rw [deviceDrives, if_neg high] at h
    exact resolve_targetDrives_ne_contention _ s h
  have target : targetDrives (Config.targetAD s.drawCount i) s ≠ [] := by
    intro undriven
    rw [deviceDrives, if_pos device, undriven] at h
    exact lineOf_ne_contention .driving _ h
  obtain ⟨running, drives⟩ := targetDrives_ne_nil target
  exact ⟨running, device, drives⟩

/-- Settles O54: the host is off AD at every boundary, and off the high address wires or alone on them; so the only
wire with two drivers is an AD wire that the device and a running target drive. -/
theorem noContentionAtBoundary : Obligations.NoContentionAtBoundary := by
  intro s h
  obtain ⟨adIdle, haIdle_or_held⟩ := h.shape.released
  have ha : Line.contention ∉ haWires s.pins s := haWires_clean haIdle_or_held
  refine ⟨adIdle, ha, fun held contended => ?_, fun i => adWire_contended adIdle⟩
  rcases contended with onAD | onHA
  · obtain ⟨i, hi, wire⟩ := Wires.contention_mem.1 onAD
    have running := (adWire_contended adIdle (i := ⟨i, hi⟩) wire).1
    exact nomatch held.symm.trans running
  · exact ha onHA

end Sys2Proof.Machine
end

section
/-! Proofs: the encoding (30_encoding.md). A row of the opcode map and the operand fields it leaves free make up a
word, so decoding is one equivalence (`decode_eq_ok_iff`): a word spells a command exactly when it matches the
command's row and its fields are the command's operands. -/

namespace Sys2Proof

/-! One operand field of a word (R67, R68). -/

/-- Bit `i` of a field placed at bit `k`. -/
theorem placeField_getLsbD {n : Nat} (v : BitVec n) (k i : Nat) :
    (placeField v k).getLsbD i = (decide (i < 64) && decide (k ≤ i) && v.getLsbD (i - k)) := by
  rw [placeField, BitVec.getLsbD_shiftLeft, BitVec.getLsbD_setWidth]
  grind

/-- A field reads back whole. -/
@[simp] theorem placeField_extract_same {n k : Nat} (v : BitVec n) (h : k + n ≤ 64) :
    (placeField v k).extractLsb' k n = v := by
  ext i hi
  have inside : k + i < 64 := by omega
  rw [BitVec.getElem_extractLsb', placeField_getLsbD]
  simp [inside, BitVec.getLsbD_eq_getElem hi]

/-- The bits below and above a field are 0. -/
@[simp] theorem placeField_extract_other {n k : Nat} (v : BitVec n) {j m : Nat} (h : j + m ≤ k ∨ k + n ≤ j) :
    (placeField v k).extractLsb' j m = 0#m := by
  ext i hi
  have outside : j + i < k ∨ n ≤ j + i - k := by omega
  rcases outside with below | above
  · simp [placeField_getLsbD, Nat.not_le.2 below]
  · simp [placeField_getLsbD, BitVec.getLsbD_of_ge v _ above]

/-- A field of a word, placed where it was read, is the word under the field's mask. -/
theorem placeField_extract (w : CmdWord) (k n : Nat) :
    placeField (w.extractLsb' k n) k = w &&& placeField (BitVec.allOnes n) k := by
  ext i hi
  rw [BitVec.getElem_and, ← BitVec.getLsbD_eq_getElem hi, ← BitVec.getLsbD_eq_getElem hi,
    ← BitVec.getLsbD_eq_getElem hi, placeField_getLsbD, placeField_getLsbD, BitVec.getLsbD_extractLsb',
    BitVec.getLsbD_allOnes]
  grind

@[simp] theorem strategyOfBit_bitOfStrategy (b : Strategy) : strategyOfBit (bitOfStrategy b) = b := by
  cases b <;> rfl

@[simp] theorem bitOfStrategy_strategyOfBit (b : Bool) : bitOfStrategy (strategyOfBit b) = b := by
  cases b <;> rfl

theorem strategyOfBit_eq_perPattern {b : Bool} : strategyOfBit b = .perPattern ↔ b = true := by
  cases b <;> decide

/-- STRAT is a field of one bit. -/
theorem fieldStrat_eq (w : CmdWord) : fieldStrat w = strategyOfBit ((w.extractLsb' 48 1).getLsbD 0) := by
  simp [fieldStrat]

/-- The bit of a strategy read from a word is the word's STRAT field. -/
theorem ofBool_bitOfStrategy_fieldStrat (w : CmdWord) :
    BitVec.ofBool (bitOfStrategy (fieldStrat w)) = w.extractLsb' 48 1 := by
  rw [fieldStrat, bitOfStrategy_strategyOfBit]
  ext i hi
  obtain rfl : i = 0 := by omega
  simp

/-! The rows of the opcode map (R69). -/

/-- A row's MASK covers OP. -/
theorem fieldOp_mask : ∀ r ∈ opcodeTable, fieldOp r.mask = 0xF := by decide

theorem rowOf_mem_opcodeTable (i : Instr) : rowOf i ∈ opcodeTable := by
  cases i <;> simp [rowOf, opcodeTable]

/-- Every row of the map is a command's. -/
theorem exists_rowOf {r : OpcodeRow} (h : r ∈ opcodeTable) : ∃ i, rowOf i = r := by
  simp only [opcodeTable, List.mem_cons, List.not_mem_nil, or_false] at h
  rcases h with rfl | rfl | rfl | rfl | rfl | rfl | rfl
  exacts [⟨.latch 0, rfl⟩, ⟨.write 0, rfl⟩, ⟨.read, rfl⟩, ⟨.selftest 0 0 .perAddress, rfl⟩, ⟨.program, rfl⟩,
    ⟨.verify, rfl⟩, ⟨.handoff, rfl⟩]

theorem matches_iff {r : OpcodeRow} {w : CmdWord} : r.matches w = true ↔ w &&& r.mask = r.value := decide_eq_true_iff

/-- The OP of a command (R67). -/
def Instr.op : Instr → BitVec 4
  | .latch _ => 1
  | .write _ => 2
  | .read => 3
  | .selftest _ _ _ => 4
  | .program => 5
  | .verify => 6
  | .handoff => 7

/-- A row's MATCH carries the OP of the row's command. -/
theorem fieldOp_rowOf (i : Instr) : fieldOp (rowOf i).value = i.op := by
  cases i <;>
    simp [fieldOp, Instr.op, rowOf, rowLatch, rowWrite, rowRead, rowSelftest, rowProgram, rowVerify, rowHandoff]

/-- The OPs of the map are 1 to 7 (R70). -/
theorem legal_op_iff (op : BitVec 4) : (1 ≤ op.toNat ∧ op.toNat ≤ 7) ↔ ∃ i : Instr, op = i.op := by
  constructor
  · intro legal
    have listed : ∃ r ∈ opcodeTable, op = fieldOp r.value := by
      revert op
      decide
    obtain ⟨r, hr, rfl⟩ := listed
    obtain ⟨i, rfl⟩ := exists_rowOf hr
    exact ⟨i, fieldOp_rowOf i⟩
  · rintro ⟨i, rfl⟩
    cases i <;> simp [Instr.op]

theorem illegal_op_iff (op : BitVec 4) : (op = 0 ∨ 8 ≤ op.toNat) ↔ ¬ (1 ≤ op.toNat ∧ op.toNat ≤ 7) := by
  bv_omega

/-- A word that matches a command's row has the command's OP, as the row's MASK covers OP. -/
theorem fieldOp_of_row {w : CmdWord} {i : Instr} (h : w &&& (rowOf i).mask = (rowOf i).value) : fieldOp w = i.op :=
  calc fieldOp w = fieldOp w &&& BitVec.allOnes 4 := BitVec.and_allOnes.symm
    _ = fieldOp w &&& fieldOp (rowOf i).mask := by rw [fieldOp_mask _ (rowOf_mem_opcodeTable i)]; rfl
    _ = fieldOp (w &&& (rowOf i).mask) := BitVec.extractLsb'_and.symm
    _ = i.op := by rw [h, fieldOp_rowOf]

/-! Decoding (R70). -/

/-- The command of the same kind with its operands read from `w` (R68). -/
def Instr.reread (w : CmdWord) : Instr → Instr
  | .latch _ => .latch (fieldAddr w)
  | .write _ => .write (fieldData w)
  | .read => .read
  | .selftest _ _ _ => .selftest (fieldAddr w) (fieldLen w) (fieldStrat w)
  | .program => .program
  | .verify => .verify
  | .handoff => .handoff

@[simp] theorem rowOf_reread (w : CmdWord) (i : Instr) : rowOf (i.reread w) = rowOf i := by cases i <;> rfl

@[simp] theorem reread_reread (w v : CmdWord) (i : Instr) : (i.reread v).reread w = i.reread w := by cases i <;> rfl

/-- A legal OP selects its row and its operands. -/
theorem decode_of_op {w : CmdWord} {i : Instr} (h : fieldOp w = i.op) :
    decode w = decodeRow (rowOf i) w (i.reread w) := by
  unfold decode
  rw [h]
  cases i <;> rfl

/-- Any other OP is illegal. -/
theorem decode_of_illegal_op {w : CmdWord} (h : ¬ (1 ≤ (fieldOp w).toNat ∧ (fieldOp w).toNat ≤ 7)) :
    decode w = .error .illegalOpcode := by
  unfold decode
  split
  case h_8 => rfl
  all_goals omega

/-- A word that matches a command's row decodes to that command with the word's operands. -/
theorem decode_of_row {w : CmdWord} {i : Instr} (h : w &&& (rowOf i).mask = (rowOf i).value) :
    decode w = .ok (i.reread w) := by
  rw [decode_of_op (fieldOp_of_row h), decodeRow, if_pos (matches_iff.2 h)]

/-- R70: the three ways to decode a word. -/
theorem decode_cases (w : CmdWord) :
    (¬ (1 ≤ (fieldOp w).toNat ∧ (fieldOp w).toNat ≤ 7) ∧ decode w = .error .illegalOpcode) ∨
    ((1 ≤ (fieldOp w).toNat ∧ (fieldOp w).toNat ≤ 7) ∧ (∀ r ∈ opcodeTable, w &&& r.mask ≠ r.value) ∧
      decode w = .error .reservedBits) ∨
    ∃ i, w &&& (rowOf i).mask = (rowOf i).value ∧ decode w = .ok (i.reread w) := by
  by_cases legal : 1 ≤ (fieldOp w).toNat ∧ (fieldOp w).toNat ≤ 7
  · by_cases noRow : ∀ r ∈ opcodeTable, w &&& r.mask ≠ r.value
    · obtain ⟨i, op⟩ := (legal_op_iff _).1 legal
      have notRow : w &&& (rowOf i).mask ≠ (rowOf i).value := noRow _ (rowOf_mem_opcodeTable i)
      refine .inr (.inl ⟨legal, noRow, ?_⟩)
      rw [decode_of_op op, decodeRow, if_neg (mt matches_iff.1 notRow)]
    · push Not at noRow
      obtain ⟨r, hr, row⟩ := noRow
      obtain ⟨i, rfl⟩ := exists_rowOf hr
      exact .inr (.inr ⟨i, row, decode_of_row row⟩)
  · exact .inl ⟨legal, decode_of_illegal_op legal⟩

/-- A word spells a command exactly when it matches the command's row and its fields are the operands (R68, R69). -/
theorem decode_eq_ok_iff {w : CmdWord} {i : Instr} :
    decode w = .ok i ↔ w &&& (rowOf i).mask = (rowOf i).value ∧ i.reread w = i := by
  constructor
  · intro decoded
    rcases decode_cases w with ⟨_, e⟩ | ⟨_, _, e⟩ | ⟨j, row, ok⟩
    · exact nomatch e.symm.trans decoded
    · exact nomatch e.symm.trans decoded
    · obtain rfl : j.reread w = i := Except.ok.inj (ok.symm.trans decoded)
      simpa using row
  · rintro ⟨row, operands⟩
    rw [decode_of_row row, operands]

/-! Encoding (R72). -/

/-- An encoding matches its command's row. -/
theorem encode_matches (i : Instr) : encode i &&& (rowOf i).mask = (rowOf i).value := by
  cases i with
  | latch addr => exact Laws.EncodeMatchesRow.latch addr
  | write data => exact Laws.EncodeMatchesRow.write data
  | read => exact Laws.EncodeMatchesRow.read
  | selftest start len strat => exact Laws.EncodeMatchesRow.selftest start len strat
  | program => exact Laws.EncodeMatchesRow.program
  | verify => exact Laws.EncodeMatchesRow.verify
  | handoff => exact Laws.EncodeMatchesRow.handoff

/-- The operands of an encoding read back. -/
theorem reread_encode (i : Instr) : i.reread (encode i) = i := by
  cases i with
  | latch addr => simp [Instr.reread, fieldAddr, encode, rowLatch, BitVec.extractLsb'_or]
  | write data => simp [Instr.reread, fieldData, encode, rowWrite, BitVec.extractLsb'_or]
  | selftest start len strat =>
    simp [Instr.reread, fieldAddr, fieldLen, fieldStrat_eq, encode, rowSelftest, BitVec.extractLsb'_or]
  | read | program | verify | handoff => rfl

/-- Encoding the operands read from a word gives the word's own bits wherever the row's MASK is 0: the fields of R67
are the bits that MASK leaves free. -/
theorem encode_reread (w : CmdWord) (i : Instr) :
    encode (i.reread w) = (rowOf i).value ||| w &&& ~~~(rowOf i).mask := by
  cases i with
  | latch =>
    have free : ~~~rowLatch.mask = placeField (BitVec.allOnes 15) 0 := by decide
    simp only [Instr.reread, encode, rowOf, fieldAddr, placeField_extract, free]
  | write =>
    have free : ~~~rowWrite.mask = placeField (BitVec.allOnes 8) 0 := by decide
    simp only [Instr.reread, encode, rowOf, fieldData, placeField_extract, free]
  | selftest =>
    have free : ~~~rowSelftest.mask = placeField (BitVec.allOnes 15) 0 ||| placeField (BitVec.allOnes 16) 32 |||
      placeField (BitVec.allOnes 1) 48 := by decide
    simp only [Instr.reread, encode, rowOf, fieldAddr, fieldLen, ofBool_bitOfStrategy_fieldStrat, placeField_extract,
      free, BitVec.and_or_distrib_left, BitVec.or_assoc]
  | read | program | verify | handoff =>
    simp [Instr.reread, encode, rowOf, rowRead, rowProgram, rowVerify, rowHandoff]

/-- Settles O1: an encoding matches its command's row, and its fields read back. -/
theorem decodeEncodeAgree : Obligations.DecodeEncodeAgree := fun i =>
  decode_eq_ok_iff.2 ⟨encode_matches i, reread_encode i⟩

/-- Settles O2: the row fixes the word under its MASK, and the operands are the rest of the word. -/
theorem encodeDecodeAgree : Obligations.EncodeDecodeAgree := by
  intro w i decoded
  obtain ⟨row, operands⟩ := decode_eq_ok_iff.1 decoded
  calc encode i = encode (i.reread w) := by rw [operands]
    _ = w &&& (rowOf i).mask ||| w &&& ~~~(rowOf i).mask := by rw [encode_reread, row]
    _ = w := by rw [← BitVec.and_or_distrib_left, BitVec.or_not_self, BitVec.and_allOnes]

/-- Settles O3: a word that matches a row decodes to the row's command with the word's operands, and to no other. -/
theorem wordSpellsCommandByRow : Obligations.WordSpellsCommandByRow := by
  refine ⟨fun w => ?_, by decide, fieldOp_mask⟩
  have spells (i : Instr) : w &&& (rowOf i).mask = (rowOf i).value ↔ decode w = .ok (i.reread w) := by
    simp [decode_eq_ok_iff]
  refine ⟨?_, ?_, spells .read, ?_, spells .program, spells .verify, spells .handoff⟩
  · exact ⟨fun row => ⟨_, (spells (.latch 0)).1 row⟩, fun ⟨_, decoded⟩ => (decode_eq_ok_iff.1 decoded).1⟩
  · exact ⟨fun row => ⟨_, (spells (.write 0)).1 row⟩, fun ⟨_, decoded⟩ => (decode_eq_ok_iff.1 decoded).1⟩
  · exact ⟨fun row => ⟨_, _, _, (spells (.selftest 0 0 .perAddress)).1 row⟩,
      fun ⟨_, _, _, decoded⟩ => (decode_eq_ok_iff.1 decoded).1⟩

/-- Settles O4, in each of the three ways to decode a word. -/
theorem undecodableWordsByCause : Obligations.UndecodableWordsByCause := by
  intro w
  rw [illegal_op_iff]
  rcases decode_cases w with ⟨illegal, decoded⟩ | ⟨legal, noRow, decoded⟩ | ⟨i, row, decoded⟩ <;> rw [decoded]
  · exact ⟨⟨fun _ => illegal, fun _ => rfl⟩, nofun, fun ⟨legal, _⟩ => absurd legal illegal⟩
  · exact ⟨⟨nofun, fun illegal => absurd legal illegal⟩, fun _ => ⟨legal, noRow⟩, fun _ => rfl⟩
  · have legal := (legal_op_iff (fieldOp w)).2 ⟨i, fieldOp_of_row row⟩
    exact ⟨⟨nofun, fun illegal => absurd legal illegal⟩, nofun,
      fun ⟨_, noRow⟩ => absurd row (noRow _ (rowOf_mem_opcodeTable i))⟩

/-- Settles O5: the row gives the opcode, and rereading the operands from the word leaves them. -/
theorem operandsAreTheFields : Obligations.OperandsAreTheFields := by
  intro w i decoded
  obtain ⟨row, operands⟩ := decode_eq_ok_iff.1 decoded
  have op : fieldOp w = i.op := fieldOp_of_row row
  cases i with
  | latch a =>
    obtain rfl := Instr.latch.inj operands
    exact ⟨op, rfl⟩
  | write v =>
    obtain rfl := Instr.write.inj operands
    exact ⟨op, rfl⟩
  | selftest a n b =>
    obtain ⟨rfl, rfl, rfl⟩ := Instr.selftest.inj operands
    exact ⟨op, rfl, rfl, strategyOfBit_eq_perPattern⟩
  | read | program | verify | handoff => exact op

/-- Settles O6: each of the words is the encoding of its command. -/
theorem writtenWordsDecode : Obligations.WrittenWordsDecode :=
  ⟨decodeEncodeAgree (.latch 0x1234), decodeEncodeAgree (.write 0xA5), decodeEncodeAgree .read,
    decodeEncodeAgree (.selftest 0x0010 2 .perPattern), decodeEncodeAgree .program, decodeEncodeAgree .verify,
    decodeEncodeAgree .handoff⟩

/-! The assembler (R72, R73). -/

/-- R72: a line is taken exactly when its numbers fit, and its words are the encodings of its commands. -/
theorem assemble_eq_some_iff {c : Config} {l : AsmLine} {ws : List CmdWord} :
    l.assemble c = some ws ↔ l.wf = true ∧ (l.expand c).map encode = ws := by
  simp [AsmLine.assemble]

theorem map_decode_encode (is : List Instr) : (is.map encode).map decode = is.map .ok := by
  rw [List.map_map]
  exact List.map_congr_left fun i _ => decodeEncodeAgree i

/-- A number that fits its field reads back. -/
theorem toNat_ofNat_of_le {n a : Nat} (h : a ≤ 2 ^ n - 1) : (BitVec.ofNat n a).toNat = a := by
  rw [BitVec.toNat_ofNat, Nat.mod_eq_of_lt (by have := Nat.two_pow_pos n; omega)]

/-- Settles O7: a line that is taken decodes to its expansion, whose operands are the numbers written because they
fit. -/
theorem assembledLinesDecode : Obligations.AssembledLinesDecode := by
  intro c l
  refine ⟨fun ws assembled => ?_, ?_⟩
  · obtain ⟨fits, rfl⟩ := assemble_eq_some_iff.1 assembled
    rw [map_decode_encode]
    refine ⟨rfl, ?_⟩
    cases l with
    | latch a | write a | rdat a => exact ⟨_, toNat_ofNat_of_le (of_decide_eq_true fits), rfl⟩
    | selftest a v | wrat a v | testcell a v =>
      obtain ⟨first, second⟩ := Bool.and_eq_true_iff.1 fits
      exact ⟨_, _, toNat_ofNat_of_le (of_decide_eq_true first), toNat_ofNat_of_le (of_decide_eq_true second), rfl⟩
    | read | program | verify | handoff | boot => rfl
  · simp only [assemble_eq_some_iff, exists_and_left, exists_eq', and_true]
    cases l <;> simp [AsmLine.wf]

end Sys2Proof
end

section
/-! Proofs: a step that takes a word (43_sequencer.md R98, R99), and one whose word is no command (R71, R107, R108). -/

namespace Sys2Proof.Machine

/-- With no host reset on its way a word that is there is the block's duty. -/
theorem blockTurn_of_fetch {u : State} {w : CmdWord} (fetched : fetchWord u = some w) (noReset : u.hostReset = none) :
    blockTurn u = wordTurn w (acceptWord u) := by
  simp [blockTurn, duty, noReset, (fetchWord_accepting fetched).pastInit, fetched]

/-- A target's turn leaves the word the block would take. -/
@[simp] theorem fetchWord_targetTurn (s : State) : fetchWord (targetTurn s) = fetchWord s := by
  simp [fetchWord]

/-- R99: a step that takes the word `w`. -/
theorem step_of_fetch {s : State} {w : CmdWord} (wf : s.cfg.wf = true) (noReset : s.hostReset = none)
    (idle : s.busy = false) (fetched : fetchWord s = some w) : step s = wordTurn w (acceptWord (targetTurn s)) := by
  rw [step, turn, if_pos wf, idle, if_neg Bool.false_ne_true,
    blockTurn_of_fetch ((fetchWord_targetTurn s).trans fetched) ((targetTurn_hostReset s).trans noReset)]

/-- The external issuer's first word is the one taken (R98). -/
theorem fetchWord_external {s : State} {w : CmdWord} {rest : List CmdWord} (source : s.cfg.cmdSource = .external)
    (pastInit : s.phase ≠ .init) (idle : s.busy = false) (noFault : s.fault = false) (words : s.issuer = w :: rest) :
    fetchWord s = some w := by
  simp [fetchWord, source, pastInit, idle, noFault, words]

theorem acceptWord_external {s : State} {w : CmdWord} {rest : List CmdWord} (source : s.cfg.cmdSource = .external)
    (words : s.issuer = w :: rest) : acceptWord s = { s with issuer := rest } := by
  simp [acceptWord, source, words]

/-- At a command boundary BUSY ends as it began, and the fault entry writes the fault record alone (R108). -/
theorem faultWord_eq (e : DecodeError) (w : CmdWord) {s : State} (idle : s.busy = false) :
    faultWord e w s = { s with fault := true, faultCause := causeOf e, faultCmd := w } := by
  cases s
  cases idle
  rfl

theorem wordTurn_undecodable {w : CmdWord} {e : DecodeError} (decoded : decode w = .error e) (s : State) :
    wordTurn w s = .next (faultWord e w s) := by
  rw [wordTurn, decoded]

/-- Settles O10: the issuer's first word is taken, and the fault entry writes the fault record alone. -/
theorem stepFaultsUndecodableWord : Obligations.StepFaultsUndecodableWord := by
  intro s w rest e wf idle noFault pastInit noReset source words decoded
  refine ⟨?_, targetTurn_held⟩
  rw [step_of_fetch wf noReset idle (fetchWord_external source pastInit idle noFault words),
    acceptWord_external (by simpa using source) (by simpa using words), wordTurn_undecodable decoded,
    faultWord_eq e w (by simpa using idle)]
  cases e <;> rfl

end Sys2Proof.Machine
end

section
/-! Proofs: what one pin micro-operation records in PIN_TRACE and in RD_SETTLED (10_state.md R44, R45,
40_pin_primitives.md R74, R78, R80). -/

namespace Sys2Proof.Machine

/-! PIN_TRACE (R45). A snapshot stored in front, newest first, is the last one of the spec's order (log 24). -/

theorem pinTrace_of_traceRev_cons {s t : State} {n : Snapshot} (h : t.traceRev = n :: s.traceRev) :
    t.pinTrace = s.pinTrace ++ [n] := by
  rw [State.pinTrace, h, List.reverse_cons, State.pinTrace]

theorem pinTrace_of_traceRev_eq {s t : State} (h : t.traceRev = s.traceRev) : t.pinTrace = s.pinTrace :=
  congrArg List.reverse h

/-- Settles O47, by the one rule of PIN_TRACE over both kinds of entry. -/
theorem pinStepRecordsOneSnapshot : Obligations.PinStepRecordsOneSnapshot := by
  intro a s
  have recorded := doAct_traceRev a s
  refine ⟨fun records => ?_, fun recordsNone => ?_⟩
  · exact pinTrace_of_traceRev_cons (recorded.trans (if_pos records))
  · exact pinTrace_of_traceRev_eq (recorded.trans (if_neg (Bool.eq_false_iff.1 recordsNone)))

/-! RD_SETTLED (R78). -/

/-- Wait sets RD_SETTLED where /RD reads 0 and clears it nowhere (R78, log 13). -/
theorem wait_rdSettled (s : State) : (doAct .wait s).rdSettled = (s.rdSettled || rdLow s.pins s) := rfl

/-- Every other pin step keeps RD_SETTLED where /RD reads 0 under the pins it leaves, and sets it nowhere (R44, R78). -/
theorem doAct_rdSettled {a : Act} (isPin : a.isPinStep = true) (notWait : a ≠ .wait) (s : State) :
    (doAct a s).rdSettled = (s.rdSettled && rdLow (doAct a s).pins s) := by
  cases a with
  | setOut | setDir | setLine | sample => rfl
  | wait => exact absurd rfl notWait
  | emit | reg => exact nomatch isPin

/-- Settles O48: a /RD wire with a level reads as it, in Wait's rule and in that of the other pin steps. -/
theorem settleFollowsWait : Obligations.SettleFollowsWait := by
  intro s
  refine ⟨fun low => ?_, fun high => ?_, fun a isPin notWait high => ?_⟩
  · rw [wait_rdSettled, rdLow_of_low low, Bool.or_true]
  · rw [wait_rdSettled, rdLow_of_high high, Bool.or_false]
  · rw [doAct_rdSettled isPin notWait, rdLow_of_high high, Bool.and_false]

end Sys2Proof.Machine
end

section
/-! Proofs: LATCH, WRITE and READ as commands, run from a boundary at which the host owns the bus (41_bus_driver.md R81
to R85). -/

namespace Sys2Proof.Machine

/-! What follows a command's sequence (R99). It moves nothing that a bus primitive has written. -/

/-- A command that has run its sequence and left `s`: the working registers released, BOOT_PC moved on, BUSY cleared. -/
def completed (s : State) : State := setBusy false (advanceBoot (releaseWork s))

@[simp] theorem completed_cfg (s : State) : (completed s).cfg = s.cfg := by simp [completed]
@[simp] theorem completed_addrValid (s : State) : (completed s).addrValid = s.addrValid := by simp [completed]
@[simp] theorem completed_writeArmed (s : State) : (completed s).writeArmed = s.writeArmed := by simp [completed]
@[simp] theorem completed_lastRead (s : State) : (completed s).lastRead = s.lastRead := by simp [completed]
@[simp] theorem completed_extLatch (s : State) : (completed s).extLatch = s.extLatch := by simp [completed]
@[simp] theorem completed_extMem (s : State) : (completed s).extMem = s.extMem := by simp [completed]

theorem exec_of_passed {i : Instr} {s : State} (h : check i s = .noFault) :
    exec i s = .next (completed (runActs (commandActs s.cfg i) (setBusy true s))) := by
  rw [exec_eq_runCommand, runCommand_passed h, completed]

theorem exec_of_turnedAway {i : Instr} {s : State} {f : FaultCause} (h : check i s = f) (hf : f ≠ .noFault) :
    exec i s = .next (faulted f i s) := by
  rw [exec_eq_runCommand, runCommand_faulted (h ▸ hf), h]

/-! The states the three commands leave: what the primitive leaves (R81 to R83), completed. -/

def afterLatch (a : Addr) (s : State) : State := completed (latchedState a (setBusy true s))

def afterWrite (v : Byte) (s : State) : State := completed (writtenState v (setBusy true s))

def afterRead (s : State) : State := completed (readState (setBusy true s))

@[simp] theorem afterLatch_cfg (a : Addr) (s : State) : (afterLatch a s).cfg = s.cfg := completed_cfg _
@[simp] theorem afterLatch_addrValid (a : Addr) (s : State) : (afterLatch a s).addrValid = true := completed_addrValid _
@[simp] theorem afterLatch_writeArmed (a : Addr) (s : State) : (afterLatch a s).writeArmed = true :=
  completed_writeArmed _
@[simp] theorem afterLatch_extLatch (a : Addr) (s : State) : (afterLatch a s).extLatch = a := completed_extLatch _
@[simp] theorem afterLatch_extMem (a : Addr) (s : State) : (afterLatch a s).extMem = s.extMem := completed_extMem _

@[simp] theorem afterWrite_cfg (v : Byte) (s : State) : (afterWrite v s).cfg = s.cfg := completed_cfg _
@[simp] theorem afterWrite_addrValid (v : Byte) (s : State) : (afterWrite v s).addrValid = s.addrValid :=
  completed_addrValid _
@[simp] theorem afterWrite_extLatch (v : Byte) (s : State) : (afterWrite v s).extLatch = s.extLatch :=
  completed_extLatch _
@[simp] theorem afterWrite_extMem (v : Byte) (s : State) :
    (afterWrite v s).extMem = deviceStore s.cfg.dev s.extMem s.extLatch v := completed_extMem _

@[simp] theorem afterRead_lastRead (s : State) : (afterRead s).lastRead = readByte s := completed_lastRead _
@[simp] theorem afterRead_extMem (s : State) : (afterRead s).extMem = s.extMem := completed_extMem _

/-- Where the settle time suffices, READ gets the device's byte (R60, R79). -/
theorem readByte_of_settleOk {s : State} (h : s.cfg.settleOk = true) :
    readByte s = deviceResp s.cfg.dev s.extMem s.extLatch := if_pos h

/-- BUSY is no part of what makes the host ready (R20). -/
theorem HostReady.setBusy {s : State} (h : HostReady s) (b : Bool) : HostReady (setBusy b s) :=
  SameBus.hostReady (s := s) ⟨rfl, rfl, rfl, rfl, rfl, rfl, rfl, rfl⟩ h

/-! Each command leaves its state, once its check has passed. -/

theorem exec_latch {s : State} (ready : HostReady s) (a : Addr) : exec (.latch a) s = .next (afterLatch a s) := by
  rw [exec_of_passed (check_hostDriving ready.phase _), commandActs, runActs_latchActs (ready.setBusy true).rest,
    afterLatch]

theorem exec_write {s : State} (ready : HostReady s) (armed : s.writeArmed = true) (v : Byte) :
    exec (.write v) s = .next (afterWrite v s) := by
  have passed : check (.write v) s = .noFault := (check_hostDriving ready.phase _).trans (if_pos armed)
  rw [exec_of_passed passed, commandActs, runActs_writeActs (ready.setBusy true).rest, afterWrite]

theorem exec_read {s : State} (ready : HostReady s) (valid : s.addrValid = true) :
    exec .read s = .next (afterRead s) := by
  have passed : check .read s = .noFault := (check_hostDriving ready.phase _).trans (if_pos valid)
  rw [exec_of_passed passed, commandActs, runActs_readActs (ready.setBusy true).rest, afterRead]

/-! LATCH and WRITE leave the host in possession of the bus, so a further command finds it so (R20). -/

theorem HostReady.afterLatch {s : State} (ready : HostReady s) (a : Addr) : HostReady (afterLatch a s) := by
  have entered := ready.setBusy true
  exact (sameBus_completed _).hostReady
    ⟨entered.phase, latchedState_rest entered.rest a, latchedState_coherent _ a⟩

theorem HostReady.afterWrite {s : State} (ready : HostReady s) (v : Byte) : HostReady (afterWrite v s) := by
  have entered := ready.setBusy true
  exact (sameBus_completed _).hostReady
    ⟨entered.phase, writtenState_rest entered.rest v, writtenState_coherent entered.coherent v⟩

/-! The effects (R81 to R83). -/

/-- Settles O19: LATCH has no check left in HOST_DRIVING, so it runs its sequence and completes. -/
theorem latchLatchesItsAddress : Obligations.LatchLatchesItsAddress := by
  intro a s ready
  refine ⟨afterLatch a s, exec_latch ready a, ?_⟩
  rw [afterLatch, completed, observed_completed]
  rfl

/-- Settles O20: an armed latch is all that the check of WRITE asks for in HOST_DRIVING. -/
theorem writeStoresAtTheLatch : Obligations.WriteStoresAtTheLatch := by
  intro v s ready
  refine ⟨fun armed => ⟨afterWrite v s, exec_write ready armed v, ?_⟩, fun unarmed => ?_⟩
  · rw [afterWrite, completed, observed_completed]
    rfl
  · have refused : check (.write v) s = .writeNotArmed :=
      (check_hostDriving ready.phase _).trans (if_neg (Bool.eq_false_iff.1 unarmed))
    exact exec_of_turnedAway refused nofun

/-- Settles O21: the IDEAL device's store is one write into the memory. -/
theorem writeChangesOneCell : Obligations.WriteChangesOneCell := by
  intro v s ready armed ideal wf
  refine ⟨afterWrite v s, exec_write ready armed v, ?_⟩
  rw [afterWrite_extMem, ideal, deviceStore]
  exact ⟨Memory.read_write_same wf _ v, fun _ other => Memory.read_write_other wf other v⟩

/-- Settles O22: a latched address is all that the check of READ asks for in HOST_DRIVING. -/
theorem readSamplesTheLatch : Obligations.ReadSamplesTheLatch := by
  intro s ready
  refine ⟨fun valid => ⟨afterRead s, readByte s, exec_read ready valid, readByte_of_settleOk, ?_⟩,
    fun invalid => ?_⟩
  · rw [afterRead, completed, observed_completed]
    rfl
  · have refused : check .read s = .readNoAddress :=
      (check_hostDriving ready.phase _).trans (if_neg (Bool.eq_false_iff.1 invalid))
    exact exec_of_turnedAway refused nofun

/-! One transaction (R85). -/

theorem execAll_cons_next {i : Instr} {s t : State} (h : exec i s = .next t) (rest : List Instr) :
    execAll (i :: rest) s = execAll rest t := by
  rw [execAll, h]

/-- LATCH arms the WRITE and gives the READ its address, so none of the three is turned away. -/
theorem execAll_transaction {s : State} (ready : HostReady s) (a : Addr) (v : Byte) :
    execAll [.latch a, .write v, .read] s = .next (afterRead (afterWrite v (afterLatch a s))) := by
  have latched := ready.afterLatch a
  rw [execAll_cons_next (exec_latch ready a), execAll_cons_next (exec_write latched (by simp) v),
    execAll_cons_next (exec_read (latched.afterWrite v) (by simp)), execAll]

/-- Settles O23: WRITE stores at the address LATCH has latched, and READ samples the same cell. -/
theorem transactionReturnsItsByte : Obligations.TransactionReturnsItsByte := by
  intro a v s ready ideal settles wf
  have stored : Memory.read (afterWrite v (afterLatch a s)).extMem a = v := by
    simpa [ideal, deviceStore] using Memory.read_write_same wf a v
  refine ⟨_, execAll_transaction ready a v, ?_, ?_⟩
  · rw [afterRead_lastRead, readByte_of_settleOk (by simpa using settles)]
    simpa [ideal, deviceResp] using stored
  · rw [afterRead_extMem, stored]

end Sys2Proof.Machine
end

section
/-! Proofs: the memory procedures on the device alone (42_memory_procedures.md R86, R87, R92, R97), with no pin and no
register: what a sweep and a write pass leave in the memory, and how many compares of a sweep miss. -/

namespace Sys2Proof.Machine

/-! Devices that hold one byte per cell: IDEAL and STUCK0 (D44). -/

/-- The device treats every cell by itself: `held a v` is what cell `a` holds after `v` has been written to it. -/
structure HoldsCells (d : Device) (held : Addr → Byte → Byte) : Prop where
  store : ∀ m a v, deviceStore d m a v = Memory.write m a (held a v)
  resp  : ∀ m a v, Memory.read m a = held a v → deviceResp d m a = held a v

/-- What cell `a` of STUCK0(c) holds of a byte written to it. -/
def stuckHeld (c a : Addr) (v : Byte) : Byte := if a = c then 0x00 else v

theorem holdsCells_ideal : HoldsCells .ideal fun _ v => v := ⟨fun _ _ _ => rfl, fun _ _ _ h => h⟩

theorem holdsCells_stuck0 (c : Addr) : HoldsCells (.stuck0 c) (stuckHeld c) := by
  refine ⟨fun _ _ _ => rfl, fun m a v h => ?_⟩
  by_cases stuck : a = c
  · rw [deviceResp, stuckHeld, if_pos stuck, if_pos stuck]
  · rw [deviceResp, if_neg stuck, h]

/-- 1 where a compare of cell `a` with the pattern `p` that was written to it misses (R89). -/
def missOf (held : Addr → Byte → Byte) (p : Byte) (a : Addr) : Nat := if held a p ≠ p then 1 else 0

/-- How many of the four patterns cell `a` misses. -/
def cellMisses (held : Addr → Byte → Byte) (a : Addr) : Nat :=
  missOf held 0x55 a + missOf held 0xAA a + missOf held 0xFF a + missOf held 0x00 a

/-- Counted pattern by pattern. -/
theorem sum_cellMisses (held : Addr → Byte → Byte) (as : List Addr) :
    (as.map (cellMisses held)).sum =
      (as.map (missOf held 0x55)).sum + (as.map (missOf held 0xAA)).sum + (as.map (missOf held 0xFF)).sum
        + (as.map (missOf held 0x00)).sum := by
  simp only [← List.sum_map_add]
  rfl

/-! What a part of a sweep does to the memory and the count. -/

/-- The addresses `as` have been written, last with `p`, no other cell has changed, and `n` compares have missed. -/
structure Swept (held : Addr → Byte → Byte) (as : List Addr) (p : Byte) (n : Nat) (mt mt' : Tallied) : Prop where
  wf      : Memory.wf mt'.1 = true
  inside  : ∀ a ∈ as, Memory.read mt'.1 a = held a p
  outside : ∀ b, b ∉ as → Memory.read mt'.1 b = Memory.read mt.1 b
  misses  : mt'.2 = mt.2 + n

section
variable {d : Device} {held : Addr → Byte → Byte} {as bs : List Addr} {p q : Byte} {n k : Nat} {mt mu mv : Tallied}

theorem Swept.none (wf : Memory.wf mt.1 = true) : Swept held [] p 0 mt mt :=
  ⟨wf, fun _ ha => absurd ha List.not_mem_nil, fun _ _ => rfl, rfl⟩

/-- The same addresses again, with another pattern. -/
theorem Swept.again (h : Swept held as p n mt mu) (h' : Swept held as q k mu mv) : Swept held as q (n + k) mt mv where
  wf := h'.wf
  inside := h'.inside
  outside b hb := (h'.outside b hb).trans (h.outside b hb)
  misses := by rw [h'.misses, h.misses, Nat.add_assoc]

/-- Further addresses, with the same pattern. -/
theorem Swept.append (h : Swept held as p n mt mu) (h' : Swept held bs p k mu mv) :
    Swept held (as ++ bs) p (n + k) mt mv where
  wf := h'.wf
  inside a ha := by
    by_cases again : a ∈ bs
    · exact h'.inside a again
    · exact (h'.outside a again).trans (h.inside a ((List.mem_append.1 ha).resolve_right again))
  outside b hb := by
    obtain ⟨notFirst, notSecond⟩ := not_or.1 (fun h => hb (List.mem_append.2 h))
    exact (h'.outside b notSecond).trans (h.outside b notFirst)
  misses := by rw [h'.misses, h.misses, Nat.add_assoc]

/-- One write. -/
theorem swept_store (cells : HoldsCells d held) (a : Addr) (wf : Memory.wf mt.1 = true) :
    Swept held [a] p 0 mt (refStore d a p mt) := by
  have written : (refStore d a p mt).1 = Memory.write mt.1 a (held a p) := cells.store mt.1 a p
  refine ⟨?_, fun x hx => ?_, fun b hb => ?_, rfl⟩
  · rw [written]
    exact Memory.write_wf wf a _
  · rw [List.mem_singleton.1 hx, written, Memory.read_write_same wf]
  · rw [written, Memory.read_write_other wf (List.ne_of_not_mem_cons hb)]

/-- One compare of a written cell. -/
theorem swept_compare (cells : HoldsCells d held) {a : Addr} (ha : a ∈ as) (h : Swept held as p n mt mu) :
    Swept held as p (n + missOf held p a) mt (refCompare d a p mu) := by
  refine ⟨h.wf, h.inside, h.outside, ?_⟩
  rw [refCompare, cells.resp mu.1 a p (h.inside a ha), missOf, h.misses]
  split <;> rfl

/-- A loop of parts over single addresses, all with the same pattern. -/
theorem swept_foldl {f : Tallied → Addr → Tallied} {miss : Addr → Nat}
    (h : ∀ a mt, Memory.wf mt.1 = true → Swept held [a] p (miss a) mt (f mt a)) (as : List Addr) {mt : Tallied}
    (wf : Memory.wf mt.1 = true) : Swept held as p (as.map miss).sum mt (as.foldl f mt) := by
  induction as generalizing mt with
  | nil => exact .none wf
  | cons a rest ih =>
    have first := h a mt wf
    exact first.append (ih first.wf)

/-- A read-back pass over written cells. -/
theorem swept_readBack (cells : HoldsCells d held) {bs : List Addr} (hbs : ∀ b ∈ bs, b ∈ as)
    (h : Swept held as p n mt mu) :
    Swept held as p (n + (bs.map (missOf held p)).sum) mt (bs.foldl (fun mt a => refCompare d a p mt) mu) := by
  induction bs generalizing n mu with
  | nil => exact h
  | cons b rest ih =>
    rw [List.map_cons, List.sum_cons, ← Nat.add_assoc]
    exact ih (fun x hx => hbs x (List.mem_cons_of_mem _ hx)) (swept_compare cells (hbs b List.mem_cons_self) h)

/-- Strategy (a), one address: four writes, each with its compare. -/
theorem swept_address (cells : HoldsCells d held) (a : Addr) (mt : Tallied) (wf : Memory.wf mt.1 = true) :
    Swept held [a] 0x00 (cellMisses held a) mt
      (refPatterns.foldl (fun mt p => refCompare d a p (refStore d a p mt)) mt) := by
  have visit (p : Byte) {mu : Tallied} (wf : Memory.wf mu.1 = true) :
      Swept held [a] p (missOf held p a) mu (refCompare d a p (refStore d a p mu)) := by
    simpa using swept_compare cells List.mem_cons_self (swept_store cells (p := p) a wf)
  have v1 := visit 0x55 wf
  have v2 := v1.again (visit 0xAA v1.wf)
  have v3 := v2.again (visit 0xFF v2.wf)
  exact v3.again (visit 0x00 v3.wf)

/-- Strategy (b), one pattern: a write pass, then a read-back pass. -/
theorem swept_pattern (cells : HoldsCells d held) (as : List Addr) (p : Byte) {mt : Tallied}
    (wf : Memory.wf mt.1 = true) :
    Swept held as p (as.map (missOf held p)).sum mt
      (as.foldl (fun mt a => refCompare d a p mt) (as.foldl (fun mt a => refStore d a p mt) mt)) := by
  have filled := swept_foldl (fun a mt wf => swept_store cells (p := p) (mt := mt) a wf) as wf
  simpa using swept_readBack cells (fun _ hb => hb) filled

/-- Either strategy leaves the last pattern in the range and misses as often as its cells do (R86, R92, R97). -/
theorem swept_sweep (cells : HoldsCells d held) (start : Addr) (len : Nat) (strat : Strategy) {m : Memory}
    (wf : Memory.wf m = true) :
    Swept held (rangeAddrs start len) 0x00 ((rangeAddrs start len).map (cellMisses held)).sum (m, 0)
      (refSweep d start len strat m) := by
  cases strat with
  | perAddress => exact swept_foldl (swept_address cells) _ wf
  | perPattern =>
    have p1 := swept_pattern cells (rangeAddrs start len) 0x55 (mt := (m, 0)) wf
    have p2 := p1.again (swept_pattern cells (rangeAddrs start len) 0xAA p1.wf)
    have p3 := p2.again (swept_pattern cells (rangeAddrs start len) 0xFF p2.wf)
    have p4 := p3.again (swept_pattern cells (rangeAddrs start len) 0x00 p3.wf)
    rw [sum_cellMisses]
    exact p4

end

/-! The misses of the two devices. -/

theorem cellMisses_ideal (a : Addr) : cellMisses (fun _ v => v) a = 0 := rfl

theorem cellMisses_stuck0 (c a : Addr) : cellMisses (stuckHeld c) a = if a = c then 3 else 0 := by
  by_cases stuck : a = c <;> simp [cellMisses, missOf, stuckHeld, stuck]

/-! The addresses of a range (R48, R86). -/

theorem mem_rangeAddrs {start a : Addr} {len : Nat} :
    a ∈ rangeAddrs start len ↔ ∃ k < len, BitVec.ofNat 15 ((start.toNat + k) % 2 ^ 15) = a := by
  simp [rangeAddrs]

/-- Indices below 2^15 are different addresses (R48). -/
theorem addr_ofNat_inj {i j n : Nat} (hi : i < n) (hj : j < n) (h : n ≤ 0x8000)
    (same : BitVec.ofNat 15 i = BitVec.ofNat 15 j) : i = j := by
  have same := congrArg BitVec.toNat same
  simp only [BitVec.toNat_ofNat] at same
  omega

/-- A range of at most 2^15 addresses meets none of them twice. -/
theorem rangeAddrs_nodup (start : Addr) {len : Nat} (h : len ≤ 0x8000) : (rangeAddrs start len).Nodup := by
  rw [rangeAddrs_eq]
  exact List.Nodup.map_on
    (fun _ hi _ hj same => addr_ofNat_inj (List.mem_range.1 hi) (List.mem_range.1 hj) h (add_left_cancel same))
    List.nodup_range

/-- A sum that counts 3 at one address of the range and 0 elsewhere. -/
theorem sum_cellMisses_stuck0 {c : Addr} {as : List Addr} (nodup : as.Nodup) (hc : c ∈ as) :
    (as.map (cellMisses (stuckHeld c))).sum = 3 := by
  have elsewhere (a : Addr) (other : a ≠ c) (_ : a ∈ as) : cellMisses (stuckHeld c) a = 0 :=
    (cellMisses_stuck0 c a).trans (if_neg other)
  rw [List.sum_map_eq_nsmul_single c _ elsewhere, List.count_eq_one_of_mem nodup hc, one_nsmul, cellMisses_stuck0,
    if_pos rfl]

/-! A write pass (R87, R94). -/

/-- The device's memory after the bytes of `visits` have been stored at their addresses, in order. -/
def storeAll (d : Device) (visits : List (Nat × Byte)) (m : Memory) : Memory :=
  visits.foldl (fun m ib => deviceStore d m (BitVec.ofNat 15 ib.1) ib.2) m

theorem refProgram_eq_storeAll (d : Device) (image : List Byte) (m : Memory) :
    refProgram d image m = storeAll d (indexedImage image) m := rfl

theorem storeAll_wf (d : Device) (visits : List (Nat × Byte)) {m : Memory} (wf : Memory.wf m = true) :
    Memory.wf (storeAll d visits m) = true := by
  induction visits generalizing m with
  | nil => exact wf
  | cons ib rest ih => exact ih (deviceStore_wf d wf _ _)

/-- The addresses a write pass visits. -/
def visited (visits : List (Nat × Byte)) : List Addr := visits.map fun ib => BitVec.ofNat 15 ib.1

/-- A cell that IDEAL's write pass does not visit is unchanged (R53). -/
theorem read_storeAll_unvisited {visits : List (Nat × Byte)} {b : Addr} (hb : b ∉ visited visits) {m : Memory}
    (wf : Memory.wf m = true) : Memory.read (storeAll .ideal visits m) b = Memory.read m b := by
  induction visits generalizing m with
  | nil => rfl
  | cons ib rest ih =>
    obtain ⟨other, later⟩ := not_or.1 (fun h => hb (List.mem_cons.2 h))
    exact (ih later (Memory.write_wf wf _ _)).trans (Memory.read_write_other wf other ib.2)

/-- A cell that IDEAL's write pass visits once holds its byte (R53). -/
theorem read_storeAll_visited {visits : List (Nat × Byte)} (once : (visited visits).Nodup) {ib : Nat × Byte}
    (h : ib ∈ visits) {m : Memory} (wf : Memory.wf m = true) :
    Memory.read (storeAll .ideal visits m) (BitVec.ofNat 15 ib.1) = ib.2 := by
  induction visits generalizing m with
  | nil => exact absurd h List.not_mem_nil
  | cons first rest ih =>
    obtain ⟨fresh, once⟩ := List.nodup_cons.1 once
    have wf' := Memory.write_wf wf (BitVec.ofNat 15 first.1) first.2
    rcases List.mem_cons.1 h with rfl | later
    · exact (read_storeAll_unvisited fresh wf').trans (Memory.read_write_same wf _ _)
    · exact ih once later wf'

/-- Visits of distinct addresses may be made in any order (R94). -/
theorem storeAll_perm {visits visits' : List (Nat × Byte)} (perm : visits.Perm visits')
    (once : (visited visits).Nodup) {m : Memory} (wf : Memory.wf m = true) :
    storeAll .ideal visits m = storeAll .ideal visits' m := by
  have sameAddrs : (visited visits).Perm (visited visits') := perm.map _
  refine Memory.ext_read (storeAll_wf _ _ wf) (storeAll_wf _ _ wf) fun a => ?_
  by_cases ha : a ∈ visited visits
  · obtain ⟨ib, visit, rfl⟩ := List.mem_map.1 ha
    rw [read_storeAll_visited once visit wf,
      read_storeAll_visited (sameAddrs.nodup_iff.1 once) (perm.mem_iff.1 visit) wf]
  · rw [read_storeAll_unvisited ha wf, read_storeAll_unvisited (fun h => ha (sameAddrs.mem_iff.2 h)) wf]

/-! The image's bytes with their indices. -/

theorem indexedImage_fst (image : List Byte) : (indexedImage image).map Prod.fst = List.range image.length :=
  List.map_fst_zip (by simp)

theorem indexedImage_snd (image : List Byte) : (indexedImage image).map Prod.snd = image :=
  List.map_snd_zip (by simp)

theorem visited_indexedImage (image : List Byte) :
    visited (indexedImage image) = (List.range image.length).map (BitVec.ofNat 15) := by
  rw [← indexedImage_fst, List.map_map]
  rfl

theorem mem_visited_indexedImage {image : List Byte} (fits : image.length ≤ 0x8000) {b : Addr} :
    b ∈ visited (indexedImage image) ↔ b.toNat < image.length := by
  rw [visited_indexedImage, List.mem_map]
  constructor
  · rintro ⟨i, hi, rfl⟩
    have hi := List.mem_range.1 hi
    rw [BitVec.toNat_ofNat]
    omega
  · intro hb
    exact ⟨b.toNat, List.mem_range.2 hb, by simp⟩

theorem visited_indexedImage_nodup {image : List Byte} (fits : image.length ≤ 0x8000) :
    (visited (indexedImage image)).Nodup := by
  rw [visited_indexedImage]
  exact List.Nodup.map_on
    (fun _ hi _ hj same => addr_ofNat_inj (List.mem_range.1 hi) (List.mem_range.1 hj) fits same) List.nodup_range

theorem mem_indexedImage {image : List Byte} {i : Nat} (h : i < image.length) :
    (i, image[i]) ∈ indexedImage image := by
  have h' : i < (indexedImage image).length := by simpa [indexedImage] using h
  simpa [indexedImage] using List.getElem_mem h'

/-- On IDEAL nothing that a write pass stored compares differently (R93). -/
theorem refMismatches_refProgram_ideal {image : List Byte} (fits : image.length ≤ 0x8000) {m : Memory}
    (wf : Memory.wf m = true) : refMismatches .ideal image (refProgram .ideal image m) = 0 := by
  refine List.countP_eq_zero.2 fun ib visit => ?_
  have held := read_storeAll_visited (visited_indexedImage_nodup fits) visit wf
  simp [deviceResp, refProgram_eq_storeAll, held]

end Sys2Proof.Machine
end

section
/-! Proofs: what the sequences of the memory procedures have in common (42_memory_procedures.md R84, R86 to R90): the
bus at the beginning and at the end of the command, the visit a loop ends with, the events, the results. -/

namespace Sys2Proof.Machine

/-! The bus at the beginning and at the end of a command (R20, R99). -/

theorem SameBus.trans {s t u : State} (h : SameBus s t) (h' : SameBus t u) : SameBus s u :=
  ⟨h'.phase.trans h.phase, h'.pins.trans h.pins, h'.latchedAddr.trans h.latchedAddr, h'.addrValid.trans h.addrValid,
    h'.writeArmed.trans h.writeArmed, h'.extLatch.trans h.extLatch, h'.tgt.trans h.tgt, h'.rdSettled.trans h.rdSettled⟩

/-- What reports a pass and ends its command is no bus activity: `u` is the state the report leaves. -/
theorem SameBus.thenCompleted {s u : State} (report : SameBus s u) : SameBus s (completed u) :=
  report.trans (sameBus_completed u)

/-- Setting BUSY is no bus activity. -/
theorem BusRun.entered {s : State} (h : BusRest s) : BusRun s (setBusy true s) :=
  ⟨setBusy_rest h true, fun c => ⟨c.haDriven, c.latchIs, c.highPins, c.armedIs⟩, rfl⟩

theorem BusRun.phase_eq {s t : State} (h : BusRun s t) : t.phase = s.phase :=
  by
  have outside := congrArg State.phase h.outside
  exact outside

theorem BusRun.hostReady {s t : State} (h : BusRun s t) (ready : HostReady s) : HostReady t :=
  ⟨h.phase_eq.trans ready.phase, h.rest, h.coherent ready.coherent⟩

/-- Every run follows some device-level values, its own. -/
theorem BusRun.tracks {s t : State} (h : BusRun s t) : Tracks s t (t.extMem, t.errTally.toNat) :=
  ⟨h, rfl, fun _ => by simp⟩

/-- The end of a command changes nothing outside the bus (R99; BOOT_PC is not compared). -/
theorem outsideBus_completed (s : State) : (completed s).outsideBus = s.outsideBus := by
  simp only [State.outsideBus, completed, observed_completed, setBusy_pins, advanceBoot_pins, releaseWork_pins]

@[simp] theorem completed_pins (s : State) : (completed s).pins = s.pins := by simp [completed]
@[simp] theorem completed_phase (s : State) : (completed s).phase = s.phase := by simp [completed]
@[simp] theorem completed_traceRev (s : State) : (completed s).traceRev = s.traceRev := by simp [completed]
@[simp] theorem completed_eventsRev (s : State) : (completed s).eventsRev = s.eventsRev := by simp [completed]
@[simp] theorem completed_errTally (s : State) : (completed s).errTally = s.errTally := by simp [completed]
@[simp] theorem completed_stErrors (s : State) : (completed s).stErrors = s.stErrors := by simp [completed]
@[simp] theorem completed_stTested (s : State) : (completed s).stTested = s.stTested := by simp [completed]
@[simp] theorem completed_stPass (s : State) : (completed s).stPass = s.stPass := by simp [completed]
@[simp] theorem completed_stDone (s : State) : (completed s).stDone = s.stDone := by simp [completed]
@[simp] theorem completed_pgWritten (s : State) : (completed s).pgWritten = s.pgWritten := by simp [completed]
@[simp] theorem completed_pgDone (s : State) : (completed s).pgDone = s.pgDone := by simp [completed]
@[simp] theorem completed_vfErrors (s : State) : (completed s).vfErrors = s.vfErrors := by simp [completed]
@[simp] theorem completed_vfChecked (s : State) : (completed s).vfChecked = s.vfChecked := by simp [completed]
@[simp] theorem completed_vfPass (s : State) : (completed s).vfPass = s.vfPass := by simp [completed]
@[simp] theorem completed_vfDone (s : State) : (completed s).vfDone = s.vfDone := by simp [completed]

/-- BOOT_PC moves on by the rule of the state in which the command was taken (R25): no entry touches what it reads. -/
theorem completed_bootPc (acts : List Act) (s : State) :
    (completed (runActs acts (setBusy true s))).bootPc = bootPcAfter s := by
  simp [completed, bootPcAfter]

/-! What the last visit leaves on the bus is read off the bus alone (R26, R27, R84). -/

theorem LastVisited.of_sameBus {a : Addr} {ad : Byte} {s x t : State} (h : LastVisited a ad s x) (b : SameBus x t) :
    LastVisited a ad s t :=
  ⟨b.latchedAddr.trans h.latched, b.addrValid.trans h.valid, b.writeArmed.trans h.disarmed, b.extLatch.trans h.extLatch,
    b.pins.trans h.pins⟩

/-- A command that reaches its end, at `u`, with no bus activity has visited nothing. -/
theorem noneVisited_completed {s u : State} (same : SameBus s u) (lastRead : u.lastRead = s.lastRead)
    (trace : u.traceRev = s.traceRev) : NoneVisited s (completed u) :=
  have b := same.thenCompleted
  ⟨b.latchedAddr, b.addrValid, b.writeArmed, (completed_lastRead u).trans lastRead, b.extLatch, b.pins,
    (completed_traceRev u).trans trace⟩

/-- What a loop's last round leaves, where every round before it keeps what that one needs. -/
theorem runActs_flatMap_last {α : Type} {P Q : State → Prop} (body : α → List Act) {l : List α} (nonempty : l ≠ [])
    (keeps : ∀ x ∈ l, ∀ s, P s → P (runActs (body x) s))
    (last : ∀ s, P s → Q (runActs (body (l.getLast nonempty)) s)) {s : State} (hs : P s) :
    Q (runActs (l.flatMap body) s) := by
  have split : l.flatMap body = l.dropLast.flatMap body ++ body (l.getLast nonempty) := by
    conv_lhs => rw [← List.dropLast_append_getLast nonempty]
    rw [List.flatMap_append, List.flatMap_singleton]
  rw [split, runActs_append]
  exact last _ (runActs_flatMap_keeps _ _ (fun x hx => keeps x (List.mem_of_mem_dropLast hx)) hs)

/-! A visit that ends with a READ (R28, R84). -/

/-- A run from `s` whose last visit was to `a` and ended with a READ. -/
structure ReadLast (a : Addr) (ad : Byte) (s x : State) : Prop where
  run      : BusRun s x
  visited  : LastVisited a ad s x
  lastRead : s.cfg.settleOk = true → x.lastRead = deviceResp s.cfg.dev x.extMem a

section
variable {a : Addr} {ad : Byte} {s x : State}

theorem BusRun.readLast (run : BusRun s x) (latched : x.extLatch = a)
    (visited : LastVisited a ad s (runActs readActs x)) : ReadLast a ad s (runActs readActs x) := by
  refine ⟨?_, visited, fun ok => ?_⟩
  · rw [runActs_readActs run.rest]
    exact run.trans (.read run.rest)
  · rw [← run.cfg_eq] at ok ⊢
    rw [lastRead_read run.rest ok, runActs_readActs run.rest, latched]
    rfl

theorem BusRun.thenLatch (run : BusRun s x) (a : Addr) : BusRun s (runActs (latchActs a) x) := by
  rw [runActs_latchActs run.rest]
  exact run.trans (.latch run.rest a)

theorem BusRun.thenWrite (run : BusRun s x) (v : Byte) : BusRun s (runActs (writeActs v) x) := by
  rw [runActs_writeActs run.rest]
  exact run.trans (.write run.rest v)

/-- LATCH, WRITE and READ leave the byte written on the AD latch. -/
theorem BusRun.transaction (run : BusRun s x) (a : Addr) (v : Byte) :
    ReadLast a v s (runActs readActs (runActs (writeActs v) (runActs (latchActs a) x))) := by
  have written := (run.thenLatch a).thenWrite v
  have visited : LastVisited a v s (runActs (writeActs v) (runActs (latchActs a) x)) := by
    rw [← runActs_append]
    exact lastVisited_write run a v
  exact written.readLast visited.extLatch (visited.read written.rest)

/-- LATCH and READ, with no WRITE between them, leave the address's low byte there. -/
theorem BusRun.latchThenRead (run : BusRun s x) (a : Addr) :
    ReadLast a (a.extractLsb' 0 8) s (runActs readActs (runActs (latchActs a) x)) := by
  have visited := lastVisited_read run a
  rw [runActs_append] at visited
  refine (run.thenLatch a).readLast ?_ visited
  rw [runActs_latchActs run.rest]
  rfl

theorem ReadLast.compare (h : ReadLast a ad s x) (p : Byte) : ReadLast a ad s (doAct (.reg (.tallyCompare p)) x) :=
  ⟨h.run.trans (.tallyCompare h.run.rest p), h.visited.of_sameBus ⟨rfl, rfl, rfl, rfl, rfl, rfl, rfl, rfl⟩,
    h.lastRead⟩

theorem ReadLast.emit (h : ReadLast a ad s x) (e : EmitOp) : ReadLast a ad s (doAct (.emit e) x) :=
  ⟨h.run.trans (.emit h.run.rest e), h.visited.of_sameBus ⟨rfl, rfl, rfl, rfl, rfl, rfl, rfl, rfl⟩,
    h.lastRead⟩

/-- A loop of visits, the last of which ends with a READ. -/
theorem readLast_flatMap {α : Type} (body : α → List Act) {l : List α} (nonempty : l ≠ [])
    (visit : ∀ y ∈ l, ∀ u, BusRun s u → BusRun s (runActs (body y) u))
    (last : ∀ u, BusRun s u → ReadLast a ad s (runActs (body (l.getLast nonempty)) u)) (run : BusRun s x) :
    ReadLast a ad s (runActs (l.flatMap body) x) :=
  runActs_flatMap_last (P := BusRun s) (Q := ReadLast a ad s) body nonempty visit last run

end

/-! Which entries emit, and which write a result or PHASE (R80, R30 to R32, R21). -/

def Act.isEmit : Act → Bool
  | .emit _ => true
  | .setOut _ => false
  | .setDir _ _ => false
  | .setLine _ _ => false
  | .wait => false
  | .sample => false
  | .reg _ => false

/-- The registers that hold PHASE and the passes' results. -/
structure Results where
  phase     : Phase
  stErrors  : Count
  stTested  : Count
  stPass    : Bool
  stDone    : Bool
  pgWritten : Count
  pgDone    : Bool
  vfErrors  : Count
  vfChecked : Count
  vfPass    : Bool
  vfDone    : Bool

def State.results (s : State) : Results :=
  ⟨s.phase, s.stErrors, s.stTested, s.stPass, s.stDone, s.pgWritten, s.pgDone, s.vfErrors, s.vfChecked, s.vfPass,
    s.vfDone⟩

def RegWrite.isResult : RegWrite → Bool
  | .selftestDone _ => true
  | .programDone => true
  | .verifyDone => true
  | .phase _ => true
  | .latched _ => false
  | .disarmed => false
  | .readDone => false
  | .addrCnt _ => false
  | .patIdx _ => false
  | .tallyClear => false
  | .tallyCompare _ => false

def Act.writesResult : Act → Bool
  | .reg r => r.isResult
  | .setOut _ => false
  | .setDir _ _ => false
  | .setLine _ _ => false
  | .wait => false
  | .sample => false
  | .emit _ => false

theorem doAct_eventsRev {a : Act} (h : a.isEmit = false) (s : State) : (doAct a s).eventsRev = s.eventsRev := by
  cases a with
  | emit => exact nomatch h
  | reg r => cases r <;> rfl
  | setOut | setDir | setLine | wait | sample => rfl

/-- A sequence with no event among its entries leaves EVENTS. -/
theorem runActs_eventsRev {acts : List Act} (h : ∀ a ∈ acts, a.isEmit = false) (s : State) :
    (runActs acts s).eventsRev = s.eventsRev := by
  induction acts generalizing s with
  | nil => rfl
  | cons a rest ih =>
    rw [runActs_cons, ih fun b hb => h b (List.mem_cons_of_mem _ hb), doAct_eventsRev (h a List.mem_cons_self)]

theorem doAct_results {a : Act} (h : a.writesResult = false) (s : State) : (doAct a s).results = s.results := by
  cases a with
  | reg r =>
    cases r with
    | selftestDone | programDone | verifyDone | phase => exact nomatch h
    | latched | disarmed | readDone | addrCnt | patIdx | tallyClear | tallyCompare => rfl
  | setOut | setDir | setLine | wait | sample | emit => rfl

/-- A sequence that writes none of them leaves PHASE and the passes' results, whatever the bus does. -/
theorem runActs_results {acts : List Act} (h : ∀ a ∈ acts, a.writesResult = false) (s : State) :
    (runActs acts s).results = s.results := by
  induction acts generalizing s with
  | nil => rfl
  | cons a rest ih =>
    rw [runActs_cons, ih fun b hb => h b (List.mem_cons_of_mem _ hb), doAct_results (h a List.mem_cons_self)]

/-- An entry that does neither: an entry of a primitive or of a loop's bookkeeping. -/
def Act.Silent (a : Act) : Prop := a.isEmit = false ∧ a.writesResult = false

def SilentActs (acts : List Act) : Prop := ∀ a ∈ acts, a.Silent

theorem SilentActs.cons {a : Act} {acts : List Act} (h : a.Silent) (h' : SilentActs acts) : SilentActs (a :: acts) :=
  List.forall_mem_cons.2 ⟨h, h'⟩

theorem SilentActs.append {acts acts' : List Act} (h : SilentActs acts) (h' : SilentActs acts') :
    SilentActs (acts ++ acts') := List.forall_mem_append.2 ⟨h, h'⟩

theorem SilentActs.flatMap {α : Type} {body : α → List Act} (h : ∀ x, SilentActs (body x)) (l : List α) :
    SilentActs (l.flatMap body) := List.forall_mem_flatMap.2 fun x _ => h x

theorem latchActs_silent (a : Addr) : SilentActs (latchActs a) := by
  simp [SilentActs, latchActs, Act.Silent, Act.isEmit, Act.writesResult, RegWrite.isResult]

theorem writeActs_silent (v : Byte) : SilentActs (writeActs v) := by
  simp [SilentActs, writeActs, Act.Silent, Act.isEmit, Act.writesResult, RegWrite.isResult]

theorem readActs_silent : SilentActs readActs := by
  simp [SilentActs, readActs, Act.Silent, Act.isEmit, Act.writesResult, RegWrite.isResult]

theorem compare_silent (p : Byte) : SilentActs [.reg (.tallyCompare p)] := .cons ⟨rfl, rfl⟩ (List.forall_mem_nil _)

/-- The transactions of a self-test emit nothing and write no result (R86). -/
theorem sweepActs_silent (start : Addr) (len : Nat) (strat : Strategy) : SilentActs (sweepActs start len strat) := by
  cases strat with
  | perAddress =>
    refine .flatMap (fun k => .cons ⟨rfl, rfl⟩ (.flatMap (fun jp => .cons ⟨rfl, rfl⟩ ?_) _)) _
    exact (((latchActs_silent _).append (writeActs_silent _)).append readActs_silent).append (compare_silent _)
  | perPattern =>
    refine .flatMap (fun jp => .cons ⟨rfl, rfl⟩ (.append (.flatMap (fun k => .cons ⟨rfl, rfl⟩ ?_) _)
      (.flatMap (fun k => .cons ⟨rfl, rfl⟩ ?_) _))) _
    · exact (latchActs_silent _).append (writeActs_silent _)
    · exact ((latchActs_silent _).append readActs_silent).append (compare_silent _)

end Sys2Proof.Machine
end

section
/-! Proofs: SELFTEST as a command (42_memory_procedures.md R86, R89, R90), and what it reports of fault-free memory
(R92) and of one stuck cell (R97). -/

namespace Sys2Proof.Machine

/-! The last visit of a sweep (R26 to R28, R84). -/

theorem indexedPatterns_ne_nil : indexedPatterns ≠ [] := List.cons_ne_nil _ _

theorem indexedPatterns_getLast : indexedPatterns.getLast indexedPatterns_ne_nil = (3, 0x00) := rfl

theorem range_ne_nil {len : Nat} (h : 0 < len) : List.range len ≠ [] := by simpa using h.ne'

section
variable {s x : State} (run : BusRun s x)
include run

theorem readLast_testCell (a : Addr) (jp : Nat × Byte) : ReadLast a jp.2 s (runActs (testCellActs a jp) x) := by
  rw [testCellActs, runActs_cons, runActs_append, runActs_append, runActs_append]
  exact ((run.trans (.patIdx run.rest jp.1)).transaction a jp.2).compare jp.2

/-- Strategy (a): the last pattern stays on the AD latch. -/
theorem readLast_testAddr (start : Addr) (k : Nat) :
    ReadLast (rangeAddr start k) 0x00 s (runActs (testAddrActs start k) x) := by
  rw [testAddrActs, runActs_cons]
  refine readLast_flatMap _ indexedPatterns_ne_nil (fun jp _ _ h => (readLast_testCell h _ jp).run) (fun u h => ?_)
    (run.trans (.addrCnt run.rest k))
  rw [indexedPatterns_getLast]
  exact readLast_testCell h _ (3, 0x00)

/-- Strategy (b): the read-back puts no byte on the AD latch after its address. -/
theorem readLast_readBack (start : Addr) (p : Byte) (k : Nat) :
    ReadLast (rangeAddr start k) ((rangeAddr start k).extractLsb' 0 8) s (runActs (readBackActs start p k) x) := by
  rw [readBackActs, runActs_cons, runActs_append, runActs_append]
  exact ((run.trans (.addrCnt run.rest k)).latchThenRead _).compare p

theorem busRun_fillCell (start : Addr) (p : Byte) (k : Nat) : BusRun s (runActs (fillCellActs start p k) x) :=
  (tracks_fillCell start p k run.tracks).run

theorem readLast_testPattern (start : Addr) {len : Nat} (hlen : 0 < len) (jp : Nat × Byte) :
    ReadLast (rangeAddr start (len - 1)) ((rangeAddr start (len - 1)).extractLsb' 0 8) s
      (runActs (testPatternActs start len jp) x) := by
  rw [testPatternActs, runActs_cons, runActs_append]
  have filled := runActs_flatMap_keeps (P := BusRun s) (fillCellActs start jp.2) (List.range len)
    (fun k _ _ h => busRun_fillCell h start jp.2 k) (run.trans (.patIdx run.rest jp.1))
  refine readLast_flatMap _ (range_ne_nil hlen) (fun k _ _ h => (readLast_readBack h start jp.2 k).run) (fun _ h => ?_) filled
  rw [List.getLast_range]
  exact readLast_readBack h start jp.2 (len - 1)

/-- What a sweep leaves on the AD latch. -/
theorem readLast_sweep (start : Addr) {len : Nat} (hlen : 0 < len) (strat : Strategy) :
    ReadLast (rangeAddr start (len - 1))
      (match strat with
        | .perAddress => 0x00
        | .perPattern => (rangeAddr start (len - 1)).extractLsb' 0 8) s
      (runActs (sweepActs start len strat) x) := by
  cases strat with
  | perAddress =>
    refine readLast_flatMap _ (range_ne_nil hlen) (fun k _ _ h => (readLast_testAddr h start k).run)
      (fun _ h => ?_) run
    rw [List.getLast_range]
    exact readLast_testAddr h start (len - 1)
  | perPattern =>
    exact readLast_flatMap _ indexedPatterns_ne_nil (fun jp _ _ h => (readLast_testPattern h start hlen jp).run)
      (fun _ h => readLast_testPattern h start hlen _) run

end

/-- A sweep over no address makes no transaction: PAT_IDX is all it writes. -/
theorem sweep_none (start : Addr) (strat : Strategy) (x : State) :
    ∃ j, runActs (sweepActs start 0 strat) x = { x with patIdx := j } := by
  cases strat with
  | perAddress => exact ⟨x.patIdx, rfl⟩
  | perPattern =>
    refine runActs_flatMap_keeps (P := fun u => ∃ j, u = { x with patIdx := j }) _ _ (fun jp _ u h => ?_)
      ⟨x.patIdx, rfl⟩
    obtain ⟨j, rfl⟩ := h
    exact ⟨BitVec.ofNat 2 jp.1, rfl⟩

/-! The command (R86). -/

/-- The state of a self-test after its transactions, before its results are written. -/
def sweptState (start : Addr) (len : Nat) (strat : Strategy) (s : State) : State :=
  runActs (sweepActs start len strat) (doAct (.reg .tallyClear) (setBusy true s))

/-- The state a self-test leaves. -/
def afterSelftest (start : Addr) (len : BitVec 16) (strat : Strategy) (s : State) : State :=
  completed (doAct (.emit .stResult) (doAct (.reg (.selftestDone len)) (sweptState start len.toNat strat s)))

theorem afterSelftest_eq (start : Addr) (len : BitVec 16) (strat : Strategy) (s : State) :
    afterSelftest start len strat s = completed (runActs (selftestActs start len strat) (setBusy true s)) := by
  rw [selftestActs, runActs_cons, runActs_append]
  rfl

/-- A length of at most 0x8000 is all that the check of SELFTEST asks for in HOST_DRIVING (R107). -/
theorem exec_selftest {s : State} (phase : s.phase = .hostDriving) (start : Addr) {len : BitVec 16}
    (legal : len.toNat ≤ 0x8000) (strat : Strategy) :
    exec (.selftest start len strat) s = .next (afterSelftest start len strat s) := by
  have passed : check (.selftest start len strat) s = .noFault :=
    (check_hostDriving phase _).trans (if_neg (Nat.not_lt.2 legal))
  rw [exec_of_passed passed, afterSelftest_eq, commandActs]

/-- The results and the event are no part of the bus. -/
theorem sameBus_afterSelftest (start : Addr) (len : BitVec 16) (strat : Strategy) (s : State) :
    SameBus (sweptState start len.toNat strat s) (afterSelftest start len strat s) :=
  SameBus.thenCompleted ⟨rfl, rfl, rfl, rfl, rfl, rfl, rfl, rfl⟩

theorem outsideBus_selftestReport (len : BitVec 16) (x : State) :
    (doAct (.emit .stResult) (doAct (.reg (.selftestDone len)) x)).outsideBus =
      { x.outsideBus with
        stErrors := x.errTally
        stTested := testedCount len
        stPass := passed x.errTally
        stDone := true } := rfl

theorem tallyCleared_run {s : State} (h : BusRest s) : BusRun s (doAct (.reg .tallyClear) (setBusy true s)) :=
  (BusRun.entered h).trans (.tallyClear (BusRun.entered h).rest)

/-- A pass that counts mismatches begins with a tally of 0 (R86, R88). -/
theorem tracks_tallyCleared {s : State} (h : BusRest s) :
    Tracks s (doAct (.reg .tallyClear) (setBusy true s)) (s.extMem, 0) :=
  ⟨tallyCleared_run h, rfl, fun _ => rfl⟩

theorem tracks_sweptState {s : State} (h : BusRest s) (start : Addr) (len : Nat) (strat : Strategy) :
    Tracks s (sweptState start len strat s) (refSweep s.cfg.dev start len strat s.extMem) :=
  tracks_sweep start len strat (tracks_tallyCleared h)

theorem sweptState_eventsRev (start : Addr) (len : Nat) (strat : Strategy) (s : State) :
    (sweptState start len strat s).eventsRev = s.eventsRev :=
  runActs_eventsRev (fun a ha => (sweepActs_silent start len strat a ha).1) _

theorem sweptState_results (start : Addr) (len : Nat) (strat : Strategy) (s : State) :
    (sweptState start len strat s).results = s.results :=
  runActs_results (fun a ha => (sweepActs_silent start len strat a ha).2) _

/-- Settles O24: the transactions follow the device's own functions, and the results are written from the tally they
leave. -/
theorem selftestComputesTheSweep : Obligations.SelftestComputesTheSweep := by
  intro start len strat s ready legal
  obtain ⟨run, mem, tally⟩ := tracks_sweptState ready.rest start len.toNat strat
  have same := sameBus_afterSelftest start len strat s
  refine ⟨afterSelftest start len strat s, (sweptState start len.toNat strat s).errTally,
    exec_selftest ready.phase start legal strat, tally, ?_, ?_, same.hostReady (run.hostReady ready), rfl, ?_, ?_,
    fun none => ?_, fun some => ?_⟩
  · rw [afterSelftest, completed_extMem]
    exact mem
  · rw [afterSelftest, outsideBus_completed, outsideBus_selftestReport, run.outside]
    rfl
  · rw [afterSelftest_eq, completed_bootPc]
  · simp only [afterSelftest, completed_eventsRev, completed_stPass, completed_stErrors, completed_stTested]
    exact congrArg _ (sweptState_eventsRev start len.toNat strat s)
  · obtain ⟨j, swept⟩ := sweep_none start strat (doAct (.reg .tallyClear) (setBusy true s))
    have untouched : sweptState start len.toNat strat s = _ := (congrArg (sweptState start · strat s) none).trans swept
    rw [afterSelftest, untouched]
    exact noneVisited_completed ⟨rfl, rfl, rfl, rfl, rfl, rfl, rfl, rfl⟩ rfl rfl
  · have last := readLast_sweep (tallyCleared_run ready.rest) start some strat
    simp only [← rangeAddr_eq]
    refine ⟨last.visited.of_sameBus same, fun ok => ?_⟩
    rw [afterSelftest, completed_lastRead, completed_extMem]
    exact last.lastRead ok

/-- Settles O25: the transactions write no result and not PHASE, whatever the bus does, and the results are written from
ERR_TALLY. -/
theorem selftestReportsItsTally : Obligations.SelftestReportsItsTally := by
  intro start len strat s phase legal
  have kept := sweptState_results start len.toNat strat s
  simp only [State.results, Results.mk.injEq] at kept
  obtain ⟨samePhase, -, -, -, -, pgWritten, pgDone, vfErrors, vfChecked, vfPass, vfDone⟩ := kept
  refine ⟨_, exec_selftest phase start legal strat, ?_⟩
  simp only [afterSelftest, completed_stDone, completed_stErrors, completed_errTally, completed_stTested,
    completed_stPass, completed_phase, completed_pgWritten, completed_pgDone, completed_vfErrors, completed_vfChecked,
    completed_vfPass, completed_vfDone]
  exact ⟨rfl, rfl, rfl, decide_eq_true_iff, samePhase.trans phase, pgWritten, pgDone, vfErrors, vfChecked, vfPass,
    vfDone⟩

/-! Devices that hold one byte per cell (R92, R97). -/

/-- On such a device a self-test of SETTLE_OK reports the misses of its range. -/
theorem selftest_reports {held : Addr → Byte → Byte} {s : State} (cells : HoldsCells s.cfg.dev held)
    (ready : HostReady s) (settles : s.cfg.settleOk = true) (wf : Memory.wf s.extMem = true) (start : Addr)
    {len : BitVec 16} (legal : len.toNat ≤ 0x8000) (strat : Strategy) :
    ∃ (t : State) (misses : Nat), exec (.selftest start len strat) s = .next t ∧
      misses = ((rangeAddrs start len.toNat).map (cellMisses held)).sum ∧
      t.stErrors = BitVec.ofNat 32 misses ∧ t.stPass = decide (BitVec.ofNat 32 misses = 0) ∧
      t.stTested = BitVec.ofNat 32 (4 * len.toNat) ∧
      Swept held (rangeAddrs start len.toNat) 0x00 misses (s.extMem, 0) (t.extMem, misses) := by
  obtain ⟨t, tally, done, counted, mem, outside, -⟩ := selftestComputesTheSweep start len strat s ready legal
  have swept := swept_sweep cells start len.toNat strat wf
  have tallyIs := counted settles
  rw [swept.misses, Nat.zero_add] at tallyIs
  have errors := congrArg State.stErrors outside
  have pass := congrArg State.stPass outside
  have tested := congrArg State.stTested outside
  refine ⟨t, _, done, rfl, errors.trans tallyIs, ?_, tested, ?_⟩
  · rw [← tallyIs]
    exact pass
  · rw [mem]
    exact ⟨swept.wf, swept.inside, swept.outside, (Nat.zero_add _).symm⟩

/-- Settles O26: no cell of IDEAL misses a pattern, and the last pattern is 0x00. -/
theorem selftestPassesOnIdealMemory : Obligations.SelftestPassesOnIdealMemory := by
  intro start len strat s ready ideal settles wf legal
  have cells : HoldsCells s.cfg.dev fun _ v => v := ideal ▸ holdsCells_ideal
  obtain ⟨t, misses, done, missed, errors, pass, tested, swept⟩ :=
    selftest_reports cells ready settles wf start legal strat
  have none : misses = 0 := by
    rw [missed]
    exact List.sum_eq_zero (by simp [cellMisses_ideal])
  rw [none] at errors pass
  refine ⟨t, done, errors, pass, ?_, fun k hk => ?_, fun b hb => ?_⟩
  · rw [tested, BitVec.toNat_ofNat]
    omega
  · exact swept.inside _ (mem_rangeAddrs.2 ⟨k, hk, rfl⟩)
  · refine swept.outside b fun inRange => ?_
    obtain ⟨k, hk, same⟩ := mem_rangeAddrs.1 inRange
    exact hb k hk same.symm

/-- R97, one transaction on the stuck cell: it reads 0x00. -/
theorem stuck_transaction {c : Addr} {s : State} (ready : HostReady s) (stuck : s.cfg.dev = .stuck0 c)
    (settles : s.cfg.settleOk = true) (p : Byte) :
    ∃ u, execAll [.latch c, .write p, .read] s = .next u ∧ u.lastRead = 0x00 := by
  refine ⟨_, execAll_transaction ready c p, ?_⟩
  rw [afterRead_lastRead, readByte_of_settleOk (by simpa using settles)]
  simp [stuck, deviceResp]

/-- Settles O27: the range meets the stuck cell once, and every other cell misses no pattern. -/
theorem stuckCellCountsThree : Obligations.StuckCellCountsThree := by
  intro start len strat c s ready stuck settles wf legal inRange
  constructor
  · have cells : HoldsCells s.cfg.dev (stuckHeld c) := stuck ▸ holdsCells_stuck0 c
    obtain ⟨t, misses, done, missed, errors, pass, -⟩ := selftest_reports cells ready settles wf start legal strat
    rw [sum_cellMisses_stuck0 (rangeAddrs_nodup start legal) (mem_rangeAddrs.2 inRange)] at missed
    rw [missed] at errors pass
    exact ⟨t, done, errors, pass⟩
  · intro p hp
    obtain ⟨u, done, read⟩ := stuck_transaction ready stuck settles p
    refine ⟨u, done, read, ?_⟩
    rw [read]
    simp only [List.mem_cons, List.not_mem_nil, or_false] at hp
    rcases hp with rfl | rfl | rfl | rfl <;> decide

end Sys2Proof.Machine
end

section
/-! Proofs: PROGRAM as a command (42_memory_procedures.md R84, R87), and on fault-free memory (R53). -/

namespace Sys2Proof.Machine

/-! The image's indices from its end. -/

theorem indexedImage_concat (image : List Byte) (v : Byte) :
    indexedImage (image ++ [v]) = indexedImage image ++ [(image.length, v)] := by
  simp [indexedImage, List.range_succ, List.zip_append]

/-! The write pass (R87). -/

/-- `t` arises from `s` by the write pass over `visits`. -/
structure WritePass (visits : List (Nat × Byte)) (s t : State) : Prop where
  run      : BusRun s t
  mem      : t.extMem = storeAll s.cfg.dev visits s.extMem
  errTally : t.errTally = s.errTally
  lastRead : t.lastRead = s.lastRead
  events   : t.eventsRev =
    (visits.map fun ib => Event.progress .write (BitVec.ofNat 15 ib.1) ib.2).reverse ++ s.eventsRev

/-- The state the write pass at one index leaves. -/
theorem runActs_programByteActs {s : State} (rest : BusRest s) (ib : Nat × Byte) :
    runActs (programByteActs ib) s =
      doAct (.emit (.progressWrite (BitVec.ofNat 15 ib.1) ib.2))
        (writtenState ib.2 (latchedState (BitVec.ofNat 15 ib.1) (doAct (.reg (.addrCnt ib.1)) s))) := by
  have counted := (BusRun.addrCnt rest ib.1).rest
  rw [programByteActs, runActs_cons, runActs_append, runActs_append, runActs_latchActs counted,
    runActs_writeActs (latchedState_rest counted _)]
  rfl

theorem busRun_programByte {s x : State} (run : BusRun s x) (ib : Nat × Byte) :
    BusRun s (runActs (programByteActs ib) x) := (tracks_programByte ib run.tracks).run

theorem writePass_byte {s : State} (rest : BusRest s) (ib : Nat × Byte) :
    WritePass [ib] s (runActs (programByteActs ib) s) := by
  refine ⟨busRun_programByte (.refl rest) ib, ?_, ?_, ?_, ?_⟩ <;>
    rw [runActs_programByteActs rest] <;> rfl

theorem WritePass.append {visits visits' : List (Nat × Byte)} {s t u : State} (h : WritePass visits s t)
    (h' : WritePass visits' t u) : WritePass (visits ++ visits') s u where
  run := h.run.trans h'.run
  mem := by rw [h'.mem, h.mem, h.run.cfg_eq, storeAll, storeAll, storeAll, List.foldl_append]
  errTally := h'.errTally.trans h.errTally
  lastRead := h'.lastRead.trans h.lastRead
  events := by rw [h'.events, h.events, List.map_append, List.reverse_append, List.append_assoc]

theorem writePass_loop (visits : List (Nat × Byte)) {s : State} (rest : BusRest s) :
    WritePass visits s (runActs (visits.flatMap programByteActs) s) := by
  induction visits generalizing s with
  | nil => exact ⟨.refl rest, rfl, rfl, rfl, rfl⟩
  | cons ib later ih =>
    have first := writePass_byte rest ib
    rw [List.flatMap_cons, runActs_append]
    exact first.append (ih first.run.rest)

/-- The last visit leaves the image's last byte on the AD latch (R27, R84). -/
theorem lastVisited_programLoop (image : List Byte) (v : Byte) {s x : State} (run : BusRun s x) :
    LastVisited (BitVec.ofNat 15 image.length) v s
      (runActs ((indexedImage (image ++ [v])).flatMap programByteActs) x) := by
  rw [indexedImage_concat, List.flatMap_append, List.flatMap_singleton, runActs_append]
  have before := runActs_flatMap_keeps (P := BusRun s) programByteActs (indexedImage image)
    (fun ib _ _ h => busRun_programByte h ib) run
  rw [programByteActs, runActs_cons, runActs_append]
  exact (lastVisited_write (before.trans (.addrCnt before.rest image.length)) _ v).of_sameBus
    ⟨rfl, rfl, rfl, rfl, rfl, rfl, rfl, rfl⟩

/-! The command. -/

/-- The state of a PROGRAM after its write pass. -/
def programmedState (s : State) : State := runActs ((indexedImage s.cfg.image).flatMap programByteActs) (setBusy true s)

/-- The state a PROGRAM leaves. -/
def afterProgram (s : State) : State := completed (doAct (.reg .programDone) (programmedState s))

theorem afterProgram_eq (s : State) :
    afterProgram s = completed (runActs (programActs s.cfg.image) (setBusy true s)) := by
  rw [programActs, runActs_append]
  rfl

/-- PROGRAM has no check left in HOST_DRIVING (R107). -/
theorem exec_program {s : State} (phase : s.phase = .hostDriving) : exec .program s = .next (afterProgram s) := by
  rw [exec_of_passed (check_hostDriving phase _), afterProgram_eq, commandActs]

theorem sameBus_afterProgram (s : State) : SameBus (programmedState s) (afterProgram s) :=
  SameBus.thenCompleted ⟨rfl, rfl, rfl, rfl, rfl, rfl, rfl, rfl⟩

theorem programmedState_writePass {s : State} (rest : BusRest s) :
    WritePass (indexedImage s.cfg.image) (setBusy true s) (programmedState s) :=
  writePass_loop _ (setBusy_rest rest true)

theorem outsideBus_programReport (x : State) :
    (doAct (.reg .programDone) x).outsideBus =
      { x.outsideBus with pgWritten := (imageLen x.cfg).setWidth 32, pgDone := true } := rfl

/-- IMAGE_LEN fits its 16 bits, so widening it loses nothing (R31, R35). -/
theorem imageLen_setWidth {c : Config} (fits : c.image.length ≤ 0x8000) :
    (imageLen c).setWidth 32 = BitVec.ofNat 32 c.image.length := by
  refine BitVec.eq_of_toNat_eq ?_
  simp only [imageLen, BitVec.toNat_setWidth, BitVec.toNat_ofNat]
  omega

/-- An empty image's loops have no round. -/
theorem programmedState_of_empty {s : State} (empty : s.cfg.image = []) : programmedState s = setBusy true s := by
  rw [programmedState, empty]
  rfl

/-- Settles O28: the write pass visits the image byte by byte, and the results are written from IMAGE_LEN. -/
theorem programStoresTheImage : Obligations.ProgramStoresTheImage := by
  intro s ready fits
  have pass := programmedState_writePass ready.rest
  have run := (BusRun.entered ready.rest).trans pass.run
  have same := sameBus_afterProgram s
  refine ⟨afterProgram s, exec_program ready.phase, ?_, ?_, ?_, same.hostReady (run.hostReady ready), rfl, ?_, ?_,
    fun empty => ?_, fun byte last => ?_⟩
  · rw [afterProgram, completed_extMem]
    exact pass.mem
  · rw [afterProgram, outsideBus_completed, outsideBus_programReport, run.cfg_eq, imageLen_setWidth fits, run.outside,
      pass.errTally]
    rfl
  · rw [afterProgram, completed_lastRead]
    exact pass.lastRead
  · rw [afterProgram_eq, completed_bootPc]
  · rw [afterProgram, completed_eventsRev]
    exact pass.events
  · rw [afterProgram, programmedState_of_empty empty]
    exact noneVisited_completed ⟨rfl, rfl, rfl, rfl, rfl, rfl, rfl, rfl⟩ rfl rfl
  · obtain ⟨init, split⟩ := List.getLast?_eq_some_iff.1 last
    have visited := lastVisited_programLoop init byte (.entered ready.rest)
    rw [← split] at visited
    have length : s.cfg.image.length - 1 = init.length := by simp [split]
    rw [length]
    exact visited.of_sameBus same

/-- Settles O29: IDEAL stores each byte in the cell it is sent to, and the image's indices are different addresses. -/
theorem programWritesOnlyTheImage : Obligations.ProgramWritesOnlyTheImage := by
  intro s ready fits ideal wf
  obtain ⟨t, done, mem, -⟩ := programStoresTheImage s ready fits
  rw [ideal, refProgram_eq_storeAll] at mem
  refine ⟨t, done, fun i hi => ?_, fun b hb => ?_⟩
  · rw [mem]
    exact read_storeAll_visited (visited_indexedImage_nodup fits) (mem_indexedImage hi) wf
  · have unvisited : b ∉ visited (indexedImage s.cfg.image) := fun h =>
      Nat.not_lt.2 hb ((mem_visited_indexedImage fits).1 h)
    rw [mem, read_storeAll_unvisited unvisited wf]

end Sys2Proof.Machine
end

section
/-! Proofs: VERIFY as a command (42_memory_procedures.md R84, R88 to R90). The bytes a pass observes are carried along
its run, since without SETTLE_OK nothing else says what they are (R60, R79). -/

namespace Sys2Proof.Machine

/-! The verify pass (R88). -/

/-- How many observed bytes differ from the expected ones. -/
def mismatches (seen expected : List Byte) : Nat := (seen.zip expected).countP fun ob => decide (ob.1 ≠ ob.2)

theorem mismatches_cons (b p : Byte) (seen expected : List Byte) :
    mismatches (b :: seen) (p :: expected) = (if b ≠ p then 1 else 0) + mismatches seen expected := by
  rw [mismatches, List.zip_cons_cons, List.countP_cons, Nat.add_comm]
  simp [mismatches]

/-- `t` arises from `s` by the verify pass over `visits`, which has observed the bytes `seen`. -/
structure VerifyPass (visits : List (Nat × Byte)) (seen : List Byte) (s t : State) : Prop where
  run      : BusRun s t
  length   : seen.length = visits.length
  mem      : t.extMem = s.extMem
  tally    : t.errTally = s.errTally + BitVec.ofNat 32 (mismatches seen (visits.map Prod.snd))
  lastRead : t.lastRead = seen.getLastD s.lastRead
  events   : t.eventsRev =
    (List.zipWith (fun ib b => Event.progress .verify (BitVec.ofNat 15 ib.1) b) visits seen).reverse ++ s.eventsRev
  settled  : s.cfg.settleOk = true →
    seen = visits.map fun ib => deviceResp s.cfg.dev s.extMem (BitVec.ofNat 15 ib.1)

/-- The byte the verify pass observes at one index. -/
def verifiedByte (ib : Nat × Byte) (s : State) : Byte :=
  readByte (latchedState (BitVec.ofNat 15 ib.1) (doAct (.reg (.addrCnt ib.1)) s))

/-- The state the verify pass at one index leaves. -/
theorem runActs_verifyByteActs {s : State} (rest : BusRest s) (ib : Nat × Byte) :
    runActs (verifyByteActs ib) s =
      doAct (.emit (.progressVerify (BitVec.ofNat 15 ib.1))) (doAct (.reg (.tallyCompare ib.2))
        (readState (latchedState (BitVec.ofNat 15 ib.1) (doAct (.reg (.addrCnt ib.1)) s)))) := by
  have counted := (BusRun.addrCnt rest ib.1).rest
  rw [verifyByteActs, runActs_cons, runActs_append, runActs_append, runActs_latchActs counted,
    runActs_readActs (latchedState_rest counted _)]
  rfl

theorem readLast_verifyByte {s x : State} (run : BusRun s x) (ib : Nat × Byte) :
    ReadLast (BitVec.ofNat 15 ib.1) ((BitVec.ofNat 15 ib.1 : Addr).extractLsb' 0 8) s
      (runActs (verifyByteActs ib) x) := by
  rw [verifyByteActs, runActs_cons, runActs_append, runActs_append]
  exact (((run.trans (.addrCnt run.rest ib.1)).latchThenRead _).compare ib.2).emit _

theorem tallyAfter_eq (tally : Count) (got expected : Byte) :
    tallyAfter tally got expected = tally + BitVec.ofNat 32 (if got ≠ expected then 1 else 0) := by
  by_cases miss : got ≠ expected <;> simp [tallyAfter, miss]

theorem verifyPass_byte {s : State} (rest : BusRest s) (ib : Nat × Byte) :
    VerifyPass [ib] [verifiedByte ib s] s (runActs (verifyByteActs ib) s) where
  run := (readLast_verifyByte (.refl rest) ib).run
  length := rfl
  mem := by rw [runActs_verifyByteActs rest]; rfl
  tally := by
    rw [runActs_verifyByteActs rest]
    exact (tallyAfter_eq s.errTally (verifiedByte ib s) ib.2).trans (by simp [mismatches])
  lastRead := by rw [runActs_verifyByteActs rest]; rfl
  events := by rw [runActs_verifyByteActs rest]; rfl
  settled ok := congrArg (fun b => [b]) (readByte_of_settleOk ok)

theorem VerifyPass.cons {ib : Nat × Byte} {b : Byte} {visits : List (Nat × Byte)} {seen : List Byte} {s t u : State}
    (h : VerifyPass [ib] [b] s t) (h' : VerifyPass visits seen t u) : VerifyPass (ib :: visits) (b :: seen) s u where
  run := h.run.trans h'.run
  length := congrArg (· + 1) h'.length
  mem := h'.mem.trans h.mem
  tally := by
    rw [h'.tally, h.tally, List.map_cons, List.map_cons, mismatches_cons, mismatches_cons, BitVec.ofNat_add,
      BitVec.ofNat_add]
    simp [mismatches, BitVec.add_assoc]
  lastRead := by
    rw [h'.lastRead, h.lastRead, List.getLastD_cons, List.getLastD_cons]
    rfl
  events := by
    rw [h'.events, h.events]
    simp
  settled ok := by
    rw [h'.settled (by rw [h.run.cfg_eq]; exact ok), h.run.cfg_eq, h.mem]
    exact congrArg (· ++ _) (h.settled ok)

theorem verifyPass_loop (visits : List (Nat × Byte)) {s : State} (rest : BusRest s) :
    ∃ seen, VerifyPass visits seen s (runActs (visits.flatMap verifyByteActs) s) := by
  induction visits generalizing s with
  | nil => exact ⟨[], .refl rest, rfl, rfl, (BitVec.add_zero _).symm, rfl, rfl, fun _ => rfl⟩
  | cons ib later ih =>
    have first := verifyPass_byte rest ib
    obtain ⟨seen, others⟩ := ih first.run.rest
    rw [List.flatMap_cons, runActs_append]
    exact ⟨_, first.cons others⟩

/-- The last visit is to the image's last address, and ends with its READ (R28, R84). -/
theorem readLast_verifyLoop (image : List Byte) (v : Byte) {s x : State} (run : BusRun s x) :
    ReadLast (BitVec.ofNat 15 image.length) ((BitVec.ofNat 15 image.length : Addr).extractLsb' 0 8) s
      (runActs ((indexedImage (image ++ [v])).flatMap verifyByteActs) x) := by
  rw [indexedImage_concat, List.flatMap_append, List.flatMap_singleton, runActs_append]
  exact readLast_verifyByte (runActs_flatMap_keeps (P := BusRun s) verifyByteActs (indexedImage image)
    (fun ib _ _ h => (readLast_verifyByte h ib).run) run) (image.length, v)

/-! The image's indices against a list of as many bytes. -/

/-- The events of a pass over the image carry the image's indices. -/
theorem zipWith_indexedImage {β : Type} (f : Nat → Byte → β) {image seen : List Byte}
    (length : seen.length = image.length) :
    List.zipWith (fun ib b => f ib.1 b) (indexedImage image) seen = (indexedImage seen).map fun ib => f ib.1 ib.2 := by
  refine List.ext_getElem (by simp [indexedImage, length]) fun i h h' => ?_
  simp [indexedImage]

/-- What the device gives at the image's indices, in order. -/
theorem map_resp_indexedImage (g : Addr → Byte) (image : List Byte) :
    ((indexedImage image).map fun ib => g (BitVec.ofNat 15 ib.1)) =
      (List.range image.length).map fun i => g (BitVec.ofNat 15 i) := by
  rw [← indexedImage_fst, List.map_map]
  rfl

/-- Counting the differing bytes of a settled pass is counting where the device differs from the image (R88, R89). -/
theorem mismatches_resp (d : Device) (m : Memory) (image : List Byte) :
    mismatches ((List.range image.length).map fun i => deviceResp d m (BitVec.ofNat 15 i)) image =
      refMismatches d image m := by
  rw [mismatches, List.zip_map_left, List.countP_map]
  rfl

/-! The command. -/

/-- The state of a VERIFY after its pass, before its results are written. -/
def verifiedState (s : State) : State :=
  runActs ((indexedImage s.cfg.image).flatMap verifyByteActs) (doAct (.reg .tallyClear) (setBusy true s))

/-- The state a VERIFY leaves. -/
def afterVerify (s : State) : State := completed (doAct (.emit .vfResult) (doAct (.reg .verifyDone) (verifiedState s)))

theorem afterVerify_eq (s : State) : afterVerify s = completed (runActs (verifyActs s.cfg.image) (setBusy true s)) := by
  rw [verifyActs, runActs_cons, runActs_append]
  rfl

/-- VERIFY has no check left in HOST_DRIVING (R107). -/
theorem exec_verify {s : State} (phase : s.phase = .hostDriving) : exec .verify s = .next (afterVerify s) := by
  rw [exec_of_passed (check_hostDriving phase _), afterVerify_eq, commandActs]

theorem sameBus_afterVerify (s : State) : SameBus (verifiedState s) (afterVerify s) :=
  SameBus.thenCompleted ⟨rfl, rfl, rfl, rfl, rfl, rfl, rfl, rfl⟩

theorem outsideBus_verifyReport (x : State) :
    (doAct (.emit .vfResult) (doAct (.reg .verifyDone) x)).outsideBus =
      { x.outsideBus with
        vfErrors := x.errTally
        vfChecked := (imageLen x.cfg).setWidth 32
        vfPass := passed x.errTally
        vfDone := true } := rfl

theorem verifiedState_of_empty {s : State} (empty : s.cfg.image = []) :
    verifiedState s = doAct (.reg .tallyClear) (setBusy true s) := by
  rw [verifiedState, empty]
  rfl

/-- A verify pass emits events, but writes no result before its end. -/
theorem verifiedState_results (s : State) : (verifiedState s).results = s.results := by
  refine runActs_results (List.forall_mem_flatMap.2 fun ib _ => ?_) (doAct (.reg .tallyClear) (setBusy true s))
  simp [verifyByteActs, latchActs, readActs, Act.writesResult, RegWrite.isResult]

/-- Settles O30: the verify pass visits the image byte by byte, and the results are written from the tally it leaves. -/
theorem verifyCountsMismatches : Obligations.VerifyCountsMismatches := by
  intro s ready fits
  have cleared := tallyCleared_run ready.rest
  obtain ⟨seen, pass⟩ := verifyPass_loop (indexedImage s.cfg.image) cleared.rest
  have run : BusRun s (verifiedState s) := cleared.trans pass.run
  have same := sameBus_afterVerify s
  have length : seen.length = s.cfg.image.length := by simpa [indexedImage] using pass.length
  have tally : (verifiedState s).errTally = BitVec.ofNat 32 (mismatches seen s.cfg.image) := by
    rw [← indexedImage_snd s.cfg.image]
    exact pass.tally.trans (BitVec.zero_add _)
  have lastRead : (afterVerify s).lastRead = (verifiedState s).lastRead := completed_lastRead _
  have mem : (verifiedState s).extMem = s.extMem := pass.mem
  refine ⟨afterVerify s, (verifiedState s).errTally, seen, exec_verify ready.phase, length, tally, ?_,
    fun byte last => ?_, fun ok => ?_, ?_, ?_, same.hostReady (run.hostReady ready), rfl, ?_, fun empty => ?_, fun nonempty => ?_⟩
  · rw [← zipWith_indexedImage (fun i b => Event.progress .verify (BitVec.ofNat 15 i) b) length]
    simp only [afterVerify, completed_eventsRev, completed_vfPass, completed_vfErrors, completed_vfChecked]
    exact congrArg _ pass.events
  · rw [lastRead]
    refine pass.lastRead.trans ?_
    rw [List.getLastD_eq_getLast?, last]
    rfl
  · have settled := (pass.settled ok).trans (map_resp_indexedImage (deviceResp s.cfg.dev s.extMem) _)
    refine ⟨settled, ?_⟩
    rw [tally, settled]
    exact congrArg _ (mismatches_resp _ _ _)
  · rw [afterVerify, completed_extMem]
    exact mem
  · rw [afterVerify, outsideBus_completed, outsideBus_verifyReport, run.cfg_eq, imageLen_setWidth fits, run.outside]
    rfl
  · rw [afterVerify_eq, completed_bootPc]
  · rw [afterVerify, verifiedState_of_empty empty]
    exact noneVisited_completed ⟨rfl, rfl, rfl, rfl, rfl, rfl, rfl, rfl⟩ rfl rfl
  · have last := readLast_verifyLoop s.cfg.image.dropLast (s.cfg.image.getLast nonempty) cleared
    rw [List.dropLast_append_getLast, List.length_dropLast] at last
    refine ⟨last.visited.of_sameBus same, fun ok => ?_⟩
    rw [lastRead, ← mem]
    exact last.lastRead ok

/-- Settles O31: the pass writes no result and not PHASE, whatever the bus does, and the results are written from
ERR_TALLY. -/
theorem verifyReportsItsTally : Obligations.VerifyReportsItsTally := by
  intro s phase
  have kept := verifiedState_results s
  simp only [State.results, Results.mk.injEq] at kept
  obtain ⟨samePhase, stErrors, stTested, stPass, stDone, pgWritten, pgDone, -⟩ := kept
  refine ⟨_, exec_verify phase, ?_⟩
  simp only [afterVerify, completed_vfDone, completed_vfErrors, completed_errTally, completed_vfPass, completed_phase,
    completed_stErrors, completed_stTested, completed_stPass, completed_stDone, completed_pgWritten, completed_pgDone]
  exact ⟨rfl, rfl, decide_eq_true_iff, samePhase.trans phase, stErrors, stTested, stPass, stDone, pgWritten, pgDone⟩

end Sys2Proof.Machine
end

section
/-! Proofs: write passes and verify passes one after another on fault-free memory (42_memory_procedures.md R93 to R95),
and the empty image (R96). -/

namespace Sys2Proof.Machine

/-! Sequences of commands. -/

theorem execAll_append_next {is : List Instr} {s t : State} (h : execAll is s = .next t) (js : List Instr) :
    execAll (is ++ js) s = execAll js t := by
  induction is generalizing s with
  | nil =>
    cases h
    rfl
  | cons i rest ih =>
    obtain ⟨u, first⟩ : ∃ u, exec i s = .next u := ⟨_, exec_eq_runCommand i s⟩
    rw [execAll_cons_next first] at h
    rw [List.cons_append, execAll_cons_next first, ih h]

theorem passes_succ (n : Nat) : passes (n + 1) = [.program, .verify] ++ passes n := rfl

/-! The two passes (R93, R95). -/

/-- A boundary with fault-free memory and a settle time that suffices. -/
structure FaultFree (s : State) : Prop where
  ready   : HostReady s
  fits    : s.cfg.image.length ≤ 0x8000
  ideal   : s.cfg.dev = .ideal
  settles : s.cfg.settleOk = true
  wf      : Memory.wf s.extMem = true

/-- PROGRAM on IDEAL leaves the image where VERIFY looks for it, and the next boundary is as fault-free. -/
theorem FaultFree.round {s : State} (h : FaultFree s) :
    ∃ t, execAll [.program, .verify] s = .next t ∧ FaultFree t ∧ t.vfErrors = 0 ∧ t.vfPass = true ∧ t.errTally = 0 := by
  obtain ⟨u, programmed, stored, outside, -, ready, -⟩ := programStoresTheImage s h.ready h.fits
  have cfg : u.cfg = s.cfg := (congrArg State.cfg outside :)
  obtain ⟨t, tally, seen, verified, -, -, -, -, settled, mem, outside', ready', -⟩ :=
    verifyCountsMismatches u ready (cfg ▸ h.fits)
  have cfg' : t.cfg = s.cfg := (congrArg State.cfg outside' :).trans cfg
  rw [h.ideal] at stored
  have none : tally = 0 := by
    rw [(settled (cfg ▸ h.settles)).2, cfg, stored, h.ideal, refMismatches_refProgram_ideal h.fits h.wf]
    rfl
  rw [none] at outside'
  refine ⟨t, ?_, ⟨ready', cfg' ▸ h.fits, cfg' ▸ h.ideal, cfg' ▸ h.settles, ?_⟩, ?_, ?_, ?_⟩
  · rw [execAll_cons_next programmed, execAll_cons_next verified, execAll]
  · rw [mem, stored, refProgram_eq_storeAll]
    exact storeAll_wf _ _ h.wf
  · exact congrArg State.vfErrors outside'
  · exact congrArg State.vfPass outside'
  · exact congrArg State.errTally outside'

/-- Settles O32: one round. -/
theorem programThenVerifyPasses : Obligations.ProgramThenVerifyPasses := by
  intro s ready fits ideal settles wf
  obtain ⟨t, done, -, errors, pass, -⟩ := FaultFree.round ⟨ready, fits, ideal, settles, wf⟩
  exact ⟨t, done, errors, pass⟩

/-- Every round ends as the first does, since it leaves what the next one asks for. -/
theorem FaultFree.rounds (n : Nat) {s : State} (h : FaultFree s) :
    ∃ t, execAll (passes (n + 1)) s = .next t ∧ t.vfErrors = 0 ∧ t.vfPass = true ∧ t.errTally = 0 := by
  induction n generalizing s with
  | zero =>
    obtain ⟨t, done, -, result⟩ := h.round
    exact ⟨t, done, result⟩
  | succ n ih =>
    obtain ⟨u, done, next, -⟩ := h.round
    rw [passes_succ, execAll_append_next done]
    exact ih next

/-- Settles O33, by induction on the number of rounds. -/
theorem repeatedPassesKeepTallyZero : Obligations.RepeatedPassesKeepTallyZero :=
  fun n _ ready fits ideal settles wf => FaultFree.rounds n ⟨ready, fits, ideal, settles, wf⟩

/-! A write pass in any order (R94). -/

/-- LATCH and WRITE, visit by visit, store what the device makes of the visits. -/
theorem execAll_writeVisits (visits : List (Nat × Byte)) {s : State} (ready : HostReady s) :
    ∃ t, execAll (writeVisits visits) s = .next t ∧ HostReady t ∧ t.cfg = s.cfg ∧
      t.extMem = storeAll s.cfg.dev visits s.extMem := by
  induction visits generalizing s with
  | nil => exact ⟨s, rfl, ready, rfl, rfl⟩
  | cons ib rest ih =>
    have latched := ready.afterLatch (BitVec.ofNat 15 ib.1)
    obtain ⟨t, done, ready', cfg, mem⟩ := ih (latched.afterWrite ib.2)
    refine ⟨t, ?_, ready', by simpa using cfg, by simpa [storeAll] using mem⟩
    rw [writeVisits, List.flatMap_cons]
    exact (execAll_cons_next (exec_latch ready _) _).trans
      ((execAll_cons_next (exec_write latched (afterLatch_writeArmed _ _) ib.2) _).trans done)

/-- With SETTLE_OK the report of VERIFY depends on the configuration and the memory alone (R88, R90). -/
theorem verify_report {s : State} (ready : HostReady s) (fits : s.cfg.image.length ≤ 0x8000)
    (settles : s.cfg.settleOk = true) :
    (afterVerify s).vfErrors = BitVec.ofNat 32 (refMismatches s.cfg.dev s.cfg.image s.extMem) ∧
      (afterVerify s).vfPass = decide ((afterVerify s).vfErrors = 0) := by
  obtain ⟨t, tally, seen, verified, -, -, -, -, settled, -, outside, -⟩ := verifyCountsMismatches s ready fits
  have same : afterVerify s = t := Host.Outcome.next.inj ((exec_verify ready.phase).symm.trans verified)
  have errors : t.vfErrors = tally := congrArg State.vfErrors outside
  rw [same, errors]
  exact ⟨(settled settles).2, congrArg State.vfPass outside⟩

/-- Settles O34: the image's indices are different addresses, so IDEAL's memory does not depend on the order, and the
report of a settled VERIFY depends on nothing else. -/
theorem writeOrderDoesNotMatter : Obligations.WriteOrderDoesNotMatter := by
  intro s visits ready fits ideal wf perm
  obtain ⟨t, written, ready_t, cfg_t, mem_t⟩ := execAll_writeVisits visits ready
  obtain ⟨u, programmed, mem_u, outside, -, ready_u, -⟩ := programStoresTheImage s ready fits
  have cfg_u : u.cfg = s.cfg := (congrArg State.cfg outside :)
  have once : (visited visits).Nodup :=
    (perm.map _).nodup_iff.2 (visited_indexedImage_nodup fits)
  have sameMem : t.extMem = u.extMem := by
    rw [mem_t, mem_u, ideal, refProgram_eq_storeAll]
    exact storeAll_perm perm once wf
  refine ⟨t, u, written, programmed, sameMem, _, _, exec_verify ready_t.phase, exec_verify ready_u.phase, fun ok => ?_⟩
  obtain ⟨errors_t, pass_t⟩ := verify_report ready_t (cfg_t ▸ fits) (cfg_t ▸ ok)
  obtain ⟨errors_u, pass_u⟩ := verify_report ready_u (cfg_u ▸ fits) (cfg_u ▸ ok)
  have sameErrors : (afterVerify t).vfErrors = (afterVerify u).vfErrors := by
    rw [errors_t, errors_u, cfg_t, cfg_u, sameMem]
  exact ⟨sameErrors, by rw [pass_t, pass_u, sameErrors]⟩

/-! The empty image (R96). -/

/-- Settles O35: without a round the sequences write registers only. -/
theorem emptyImageMovesNoPin : Obligations.EmptyImageMovesNoPin := by
  intro s phase empty
  have noByte : (imageLen s.cfg).setWidth 32 = 0 := by rw [imageLen, empty]; rfl
  constructor
  · refine ⟨_, exec_program phase, ?_⟩
    simp only [afterProgram, programmedState_of_empty empty, completed_traceRev, completed_pins, completed_extMem,
      completed_pgWritten, completed_pgDone]
    exact ⟨rfl, rfl, rfl, noByte, rfl⟩
  · refine ⟨_, exec_verify phase, ?_⟩
    simp only [afterVerify, verifiedState_of_empty empty, completed_traceRev, completed_pins, completed_extMem,
      completed_vfErrors, completed_vfChecked, completed_vfPass]
    exact ⟨rfl, rfl, rfl, rfl, noByte, rfl⟩

end Sys2Proof.Machine
end

section
/-! Proofs: the verdicts gate nothing (42_memory_procedures.md R91). Two states that differ only in verdicts are followed
entry by entry; only the events of R80 that report a result read it, and each follows the write of what it reports. -/

namespace Sys2Proof.Machine

/-- An entry that reads no verdict: any but the two events that report one (R80). -/
def Act.readsNoVerdict : Act → Bool
  | .emit e =>
    match e with
    | .stResult => false
    | .vfResult => false
    | .progressWrite _ _ => true
    | .progressVerify _ => true
  | .setOut _ => true
  | .setDir _ _ => true
  | .setLine _ _ => true
  | .wait => true
  | .sample => true
  | .reg _ => true

theorem doAct_withoutVerdicts {a : Act} (h : a.readsNoVerdict = true) (s : State) :
    (doAct a s.withoutVerdicts).withoutVerdicts = (doAct a s).withoutVerdicts := by
  cases a with
  | emit e =>
    cases e with
    | stResult | vfResult => exact nomatch h
    | progressWrite | progressVerify => rfl
  | reg r => cases r <;> rfl
  | setOut | setDir | setLine | wait | sample => rfl

/-- What `f` does to the rest of the state does not depend on the verdicts it finds. -/
def VerdictFree (f : State → State) : Prop := ∀ s, (f s.withoutVerdicts).withoutVerdicts = (f s).withoutVerdicts

/-- Two states that differ only in verdicts stay so. -/
theorem VerdictFree.congr {f : State → State} (h : VerdictFree f) {s s' : State}
    (same : s.withoutVerdicts = s'.withoutVerdicts) : (f s).withoutVerdicts = (f s').withoutVerdicts := by
  rw [← h s, same, h s']

theorem VerdictFree.comp {f g : State → State} (hg : VerdictFree g) (hf : VerdictFree f) : VerdictFree (g ∘ f) :=
  fun s => hg.congr (hf s)

theorem VerdictFree.runActs_append {acts acts' : List Act} (h : VerdictFree (runActs acts))
    (h' : VerdictFree (runActs acts')) : VerdictFree (runActs (acts ++ acts')) := by
  rw [show runActs (acts ++ acts') = runActs acts' ∘ runActs acts from funext (Machine.runActs_append acts acts')]
  exact h'.comp h

theorem verdictFree_of_readsNone {acts : List Act} (h : ∀ a ∈ acts, a.readsNoVerdict = true) :
    VerdictFree (runActs acts) := by
  induction acts with
  | nil => exact fun _ => rfl
  | cons a rest ih =>
    have first : VerdictFree (doAct a) := doAct_withoutVerdicts (h a List.mem_cons_self)
    exact (ih fun b hb => h b (List.mem_cons_of_mem _ hb)).comp first

/-- VERIFY writes its verdict before it reports it (R88). -/
theorem verdictFree_verifyReport : VerdictFree (runActs [.reg .verifyDone, .emit .vfResult]) := fun _ => rfl

/-- PROGRAM, VERIFY and HANDOFF read no verdict. -/
theorem verdictFree_command (c : Config) {i : Instr} (command : i = .program ∨ i = .verify ∨ i = .handoff) :
    VerdictFree (runActs (commandActs c i)) := by
  rcases command with rfl | rfl | rfl
  · refine VerdictFree.runActs_append (verdictFree_of_readsNone (List.forall_mem_flatMap.2 fun ib _ => ?_)) fun _ => rfl
    simp [programByteActs, latchActs, writeActs, Act.readsNoVerdict]
  · refine VerdictFree.runActs_append (acts := .reg .tallyClear :: (indexedImage c.image).flatMap verifyByteActs)
      (verdictFree_of_readsNone (List.forall_mem_cons.2 ⟨rfl, List.forall_mem_flatMap.2 fun ib _ => ?_⟩))
      verdictFree_verifyReport
    simp [verifyByteActs, latchActs, readActs, Act.readsNoVerdict]
  · refine verdictFree_of_readsNone ?_
    cases h : c.handoffCtrl <;> simp [commandActs, handoffActs, h, Act.readsNoVerdict]

/-- The end of a command reads CMD_SOURCE, but no verdict. -/
theorem verdictFree_completed : VerdictFree completed := fun s => by
  cases source : s.cfg.cmdSource <;> simp [completed, advanceBoot, State.withoutVerdicts, source, setBusy, releaseWork]

/-- Nor does a check or the fault entry (R107, R108). -/
theorem verdictFree_runCommand {i : Instr} {acts : List Act} (free : VerdictFree (runActs acts)) :
    VerdictFree (runCommand i acts) := fun s => by
  have entered : VerdictFree (setBusy true) := fun _ => rfl
  have sameCheck : check i s.withoutVerdicts = check i s := rfl
  by_cases passed : check i s = .noFault
  · rw [runCommand_passed (sameCheck ▸ passed), runCommand_passed passed]
    exact verdictFree_completed.comp (free.comp entered) s
  · rw [runCommand_faulted (sameCheck ▸ passed), runCommand_faulted passed, sameCheck]
    rfl

/-- Settles O36, entry by entry. -/
theorem verdictsGateNothing : Obligations.VerdictsGateNothing := by
  intro i s s' command same
  have cfg : s.cfg = s'.cfg := (congrArg State.cfg same :)
  refine ⟨_, _, exec_eq_runCommand i s, exec_eq_runCommand i s', ?_⟩
  rw [← cfg]
  exact (verdictFree_runCommand (verdictFree_command s.cfg command)).congr same

end Sys2Proof.Machine
end

section
/-! Proofs: the boot sequence and the configurations it runs under (43_sequencer.md R100, R101): BOOT_ROM's words, and
that no command of the boot sequence has a check that turns it away. -/

namespace Sys2Proof.Machine

/-! The configuration (R101). -/

/-- A well-formed configuration keeps both bounds of R101. -/
theorem config_bounds {c : Config} (wf : c.wf = true) : c.stLen.toNat ≤ 0x8000 ∧ c.image.length ≤ 0x8000 := by
  simp only [Config.wf, Bool.and_eq_true, decide_eq_true_eq] at wf
  obtain ⟨⟨⟨stLen, imageLen⟩, _⟩, _⟩ := wf
  exact ⟨stLen, imageLen⟩

/-- Settles O18: a configuration past either bound is not well formed, and the step looks at that first. -/
theorem malformedConfigIsRefused : Obligations.MalformedConfigIsRefused := by
  intro s tooLong
  have malformed : ¬ s.cfg.wf = true := fun wf => by
    obtain ⟨stLen, imageLen⟩ := config_bounds wf
    omega
  rw [step, turn, if_neg malformed]

/-! BOOT_ROM (R100). -/

/-- The word of the configured self-test, with its fields in R100's order. -/
theorem encode_bootSelftest (c : Config) :
    encode (bootSelftest c) =
      (0x4000_0000_0000_0000 : CmdWord) ||| (BitVec.ofBool (bitOfStrategy c.stStrategy)).setWidth 64 <<< 48
        ||| c.stLen.setWidth 64 <<< 32 ||| c.stStart.setWidth 64 := by
  have reorder (v a b c : CmdWord) : v ||| a ||| b ||| c = v ||| c ||| b ||| a := by ac_rfl
  rw [bootSelftest, encode, placeField, placeField, placeField, BitVec.shiftLeft_zero]
  exact reorder ..

/-- Settles O8: the first word carries the three fields, the other commands have none. -/
theorem bootRomHoldsItsWords : Obligations.BootRomHoldsItsWords := by
  intro c
  constructor
  · rw [bootRom, bootSequence, List.map_cons, encode_bootSelftest]
    cases c.stStrategy <;> rfl
  · intro start len strategy
    rw [bootRom, bootSequence, List.map_cons, encode_bootSelftest, start, len, strategy]
    rfl

/-- The commands by BOOT_PC. -/
theorem bootSequence_cases {c : Config} {k : Nat} {i : Instr} (h : (bootSequence c)[k]? = some i) :
    k = 0 ∧ i = bootSelftest c ∨ k = 1 ∧ i = .program ∨ k = 2 ∧ i = .verify ∨ k = 3 ∧ i = .handoff := by
  rcases k with _ | _ | _ | _ | k <;> simp_all [bootSequence]

/-- The boot sequence ends with its only HANDOFF. -/
theorem bootSequence_handoff_iff {c : Config} {k : Nat} {i : Instr} (h : (bootSequence c)[k]? = some i) :
    i = .handoff ↔ k = 3 := by
  rcases bootSequence_cases h with ⟨rfl, rfl⟩ | ⟨rfl, rfl⟩ | ⟨rfl, rfl⟩ | ⟨rfl, rfl⟩ <;> simp [bootSelftest]

/-- In HOST_DRIVING no check turns a command of the boot sequence away: SELFTEST's length is legal, and the others have
no check left (R101, R107). -/
theorem check_bootSequence {s : State} (wf : s.cfg.wf = true) (phase : s.phase = .hostDriving) {k : Nat} {i : Instr}
    (h : (bootSequence s.cfg)[k]? = some i) : check i s = .noFault := by
  rw [check_hostDriving phase]
  rcases bootSequence_cases h with ⟨rfl, rfl⟩ | ⟨rfl, rfl⟩ | ⟨rfl, rfl⟩ | ⟨rfl, rfl⟩
  · exact if_neg (Nat.not_lt.2 (config_bounds wf).1)
  all_goals rfl

/-! The word at BOOT_PC (R98, R100). -/

theorem bootRom_getElem?_eq_some {c : Config} {k : Nat} {w : CmdWord} :
    (bootRom c)[k]? = some w ↔ ∃ i, (bootSequence c)[k]? = some i ∧ encode i = w := by
  rw [bootRom, List.getElem?_map, Option.map_eq_some_iff]

/-- With BOOT an accepting block takes BOOT_ROM's word at BOOT_PC (R98). -/
theorem fetchWord_boot {s : State} (source : s.cfg.cmdSource = .boot) (pastInit : s.phase ≠ .init)
    (idle : s.busy = false) (noFault : s.fault = false) (left : s.bootPc.toNat < 4) :
    fetchWord s = (bootRom s.cfg)[s.bootPc.toNat]? := by
  simp [fetchWord, source, pastInit, idle, noFault, left]

/-- With BOOT a word that is taken spells the command at BOOT_PC. -/
theorem fetchWord_boot_decodes {s : State} (source : s.cfg.cmdSource = .boot) (idle : s.busy = false) {w : CmdWord}
    (fetched : fetchWord s = some w) :
    ∃ i, (bootSequence s.cfg)[s.bootPc.toNat]? = some i ∧ decode w = .ok i := by
  obtain ⟨pastInit, noFault, left⟩ := fetchWord_accepting fetched
  rw [fetchWord_boot source pastInit idle noFault (left source)] at fetched
  obtain ⟨i, next, rfl⟩ := bootRom_getElem?_eq_some.1 fetched
  exact ⟨i, next, decodeEncodeAgree i⟩

end Sys2Proof.Machine
end

section
/-! Proofs: a block that runs its boot sequence (43_sequencer.md R101). BOOT_PC names the command that is taken, so the
block is in HOST_DRIVING whenever it takes one, and HANDOFF is the one that moves BOOT_PC to 4. -/

namespace Sys2Proof.Machine

/-- A target's turn is no turn of the block. -/
theorem BootSound.targetTurn {s : State} (h : BootSound s) : BootSound (targetTurn s) where
  boundary := targetTurn_boundary h.boundary
  source := by rw [targetTurn_cfg]; exact h.source
  noFault := (targetTurn_fault s).trans h.noFault
  pcPhase := by rw [targetTurn_phase, targetTurn_bootPc]; exact h.pcPhase

/-- Past INIT the host owns the bus until BOOT_PC is 4. -/
theorem BootSound.hostDriving {s : State} (h : BootSound s) (pastInit : s.phase ≠ .init) (left : s.bootPc ≠ 4) :
    s.phase = .hostDriving := by
  have shape := h.boundary.shape
  unfold PhaseShape at shape
  cases phase : s.phase with
  | init => exact absurd phase pastInit
  | hostDriving => rfl
  | busReleased => simp [phase] at shape
  | targetRunning => exact absurd (h.pcPhase.1 phase) left

/-- What a block that takes a word knows of it: it is the command at BOOT_PC, and no check turns it away. -/
theorem BootSound.taken {s : State} (h : BootSound s) (wf : s.cfg.wf = true) {w : CmdWord}
    (fetched : fetchWord s = some w) :
    ∃ i, (bootSequence s.cfg)[s.bootPc.toNat]? = some i ∧ decode w = .ok i ∧ check i s = .noFault := by
  obtain ⟨i, next, decoded⟩ := fetchWord_boot_decodes h.source h.boundary.notBusy fetched
  obtain ⟨pastInit, _, left⟩ := fetchWord_accepting fetched
  have notOver : s.bootPc ≠ 4 := fun done => by
    simpa [done] using left h.source
  exact ⟨i, next, decoded, check_bootSequence wf (h.hostDriving pastInit notOver) next⟩

@[simp] theorem takeHostReset_fault (s : State) : (takeHostReset s).fault = false := rfl
@[simp] theorem takeHostReset_phase (s : State) : (takeHostReset s).phase = .init := rfl
@[simp] theorem takeHostReset_bootPc (s : State) : (takeHostReset s).bootPc = 0 := rfl

theorem runActs_handoff_phase (ctrl : HandoffCtrl) (s : State) :
    (runActs (handoffActs ctrl) s).phase = .targetRunning := by cases ctrl <;> rfl

/-- Of the commands that pass their checks only HANDOFF leaves HOST_DRIVING. -/
theorem runActs_phase_iff {s : State} (ready : HostReady s) (safe : s.TraceSafe) (i : Instr) :
    (runActs (commandActs s.cfg i) s).phase = .targetRunning ↔ i = .handoff := by
  by_cases hi : i = .handoff
  · subst hi
    exact iff_of_true (runActs_handoff_phase _ s) rfl
  · have quiet := quiet_command hi (s := s) ⟨ready.phase, ready.rest, ready.coherent, safe⟩
    exact iff_of_false (by simp [quiet.phase]) hi

/-- After each of the block's turns no fault is recorded, and BOOT_PC is 4 exactly once the target runs. -/
theorem BlockStep.bootSound_record {u t : State} (turn : BlockStep u t) (h : BootSound u) (wf : u.cfg.wf = true) :
    t.fault = false ∧ (t.phase = .targetRunning ↔ t.bootPc = 4) := by
  cases turn with
  | idle => exact ⟨h.noFault, h.pcPhase⟩
  | hostReset | initCut | commandCut => simp
  | initDone init =>
    obtain ⟨_, _, _, _, pc, _⟩ := h.boundary.atInit init
    refine ⟨(runActs_fault initActs u).trans h.noFault, iff_of_false nofun ?_⟩
    simp [runInit, pc]
  | undecodable w e fetched decoded =>
    obtain ⟨i, _, ok, _⟩ := h.taken wf fetched
    exact nomatch ok.symm.trans decoded
  | turnedAway w i fetched decoded refused =>
    obtain ⟨j, _, ok, passed⟩ := h.taken wf fetched
    obtain rfl : j = i := Except.ok.inj (ok.symm.trans decoded)
    exact absurd passed refused
  | completed w i fetched decoded passed =>
    obtain ⟨j, next, ok, _⟩ := h.taken wf fetched
    obtain rfl : j = i := Except.ok.inj (ok.symm.trans decoded)
    have ready :=
      (sameBus_entered (commandActs u.cfg j).length u).hostReady (h.boundary.hostReady (hostDriving_of_passed passed))
    have phase := runActs_phase_iff ready (by simpa [State.TraceSafe] using h.boundary.traceSafe) j
    simp only [setBusy_cfg, countDown_cfg, acceptWord_cfg] at phase
    refine ⟨by simpa using h.noFault, ?_⟩
    have lastMoves : u.bootPc.toNat = 3 ↔ u.bootPc + 1 = 4 := by bv_omega
    simpa [phase, bootSequence_handoff_iff next, bootPcAfter, h.source] using lastMoves

theorem BlockStep.bootSound {u t : State} (turn : BlockStep u t) (h : BootSound u) (wf : u.cfg.wf = true) :
    BootSound t := by
  obtain ⟨noFault, pcPhase⟩ := turn.bootSound_record h wf
  exact ⟨turn.boundary h.boundary, (congrArg Config.cmdSource turn.cfg).trans h.source, noFault, pcPhase⟩

/-- Settles O55: the target's turn and each of the block's turns keep it. -/
theorem bootSequenceNeverFaults : Obligations.BootSequenceNeverFaults := by
  intro s t h stepped
  obtain ⟨wf, _, turn⟩ := step_cases stepped
  exact turn.bootSound h.targetTurn (by rwa [targetTurn_cfg])

end Sys2Proof.Machine
end

section
/-! Proofs: a step with no host reset on its way (43_sequencer.md R98, R99, R103, R105): it runs the decoded command, or
there is none and the block keeps every element, or the target runs and the word faults. -/

namespace Sys2Proof.Machine

/-! A step that runs a command (R99). -/

theorem countDown_of_noReset {s : State} (noReset : s.hostReset = none) (n : Nat) : countDown n s = s := by
  rw [countDown, noReset, Option.map_none, ← noReset]

/-- With no host reset on its way a command runs whole. -/
theorem commandTurn_of_noReset {s : State} (noReset : s.hostReset = none) (i : Instr) :
    commandTurn i s = exec i s := by
  unfold commandTurn
  split
  case h_1 k cut => exact absurd cut (cutAt_none noReset)
  case h_2 => rw [countDown_of_noReset noReset]

/-- The boot sequence moves on only when its command completes, so accepting its word changes nothing (R98). -/
theorem acceptWord_boot {s : State} (source : s.cfg.cmdSource = .boot) : acceptWord s = s := by
  rw [acceptWord, source]

/-- R99: a step that takes a word which spells a command. -/
theorem step_of_command {s : State} {w : CmdWord} {i : Instr} (wf : s.cfg.wf = true) (noReset : s.hostReset = none)
    (idle : s.busy = false) (fetched : fetchWord s = some w) (decoded : decode w = .ok i) :
    step s = exec i (acceptWord (targetTurn s)) := by
  rw [step_of_fetch wf noReset idle fetched, wordTurn, decoded]
  exact commandTurn_of_noReset (by simpa using noReset) i

/-- Settles O9: both sources present the word `w`, and only the issuer's is taken from a list. -/
theorem stepRunsDecodedCommand : Obligations.StepRunsDecodedCommand := by
  intro s w i wf idle noFault pastInit noReset decoded
  refine ⟨fun source left word => ?_, fun rest source words => ?_, targetTurn_held⟩
  · have fetched := (fetchWord_boot source pastInit idle noFault left).trans word
    rw [step_of_command wf noReset idle fetched decoded, acceptWord_boot (by simpa using source)]
  · have fetched := fetchWord_external source pastInit idle noFault words
    rw [step_of_command wf noReset idle fetched decoded,
      acceptWord_external (by simpa using source) (by simpa using words)]

/-! A step with no command to take (R105). -/

/-- With no command to take the block's turn is idle. -/
theorem blockTurn_of_noFetch {u : State} (pastInit : u.phase ≠ .init) (noReset : u.hostReset = none)
    (nothing : fetchWord u = none) : blockTurn u = .next u := by
  simp [blockTurn, duty, noReset, pastInit, nothing]

/-- Then a step is the target's turn alone (R117). -/
theorem step_of_noFetch {s : State} (wf : s.cfg.wf = true) (noReset : s.hostReset = none) (idle : s.busy = false)
    (pastInit : s.phase ≠ .init) (nothing : fetchWord s = none) : step s = .next (targetTurn s) := by
  rw [step, turn, if_pos wf, idle, if_neg Bool.false_ne_true]
  exact blockTurn_of_noFetch (by simpa using pastInit) (by simpa using noReset) (by simpa using nothing)

/-- No command left is no word to take (R98, R105). -/
theorem fetchWord_of_noneLeft {s : State} (h : s.NoneLeft) : fetchWord s = none := by
  unfold State.NoneLeft at h
  cases source : s.cfg.cmdSource with
  | boot =>
    rw [source] at h
    simp [fetchWord, source, h]
  | external =>
    rw [source] at h
    simp [fetchWord, source, h]

/-- The target's turn moves the environment and the index of free values alone (R117). -/
theorem targetTurn_env (s : State) :
    { targetTurn s with extMem := s.extMem, extLatch := s.extLatch, drawCount := s.drawCount } = s := by
  rcases targetTurn_cases s with h | ⟨m, l, h⟩ <;> rw [h]

/-- Settles O17: neither end of a run has a command to take. -/
theorem endsKeepTheState : Obligations.EndsKeepTheState := by
  intro s ends wf noReset
  have stepped : step s = .next (targetTurn s) := by
    rcases ends with ⟨phase, idle, none⟩ | ⟨phase, idle, _, none⟩ <;>
      exact step_of_noFetch wf noReset idle (by simp [phase]) (fetchWord_of_noneLeft none)
  refine ⟨stepped, fun held => ?_, ?_, targetTurn_env s⟩
  · rw [stepped, targetTurn_held held]
  · rintro ⟨driving, _⟩ ⟨running, _⟩
    exact nomatch driving.symm.trans running

/-! A step after HANDOFF (R103). -/

/-- The state that a word turned away leaves (R108). -/
def turnedAwayWith (f : FaultCause) (w : CmdWord) (s : State) : State :=
  setBusy false (faultEntry f w (setBusy true (acceptWord s)))

/-- After HANDOFF the block's turn is idle, or a word is turned away: with AFTER_HANDOFF if it spells a command. -/
theorem BlockStep.afterHandoff {u t : State} (turn : BlockStep u t) (phase : u.phase = .targetRunning)
    (noReset : u.hostReset = none) :
    (fetchWord u = none ∧ t = u) ∨
      ∃ w f, fetchWord u = some w ∧ (∀ i, decode w = .ok i → f = .afterHandoff) ∧ t = turnedAwayWith f w u := by
  have notInit : u.phase ≠ .init := by simp [phase]
  have notDriving : u.phase ≠ .hostDriving := by simp [phase]
  cases turn with
  | idle _ nothing => exact .inl ⟨nothing, rfl⟩
  | hostReset pending => exact absurd noReset pending
  | initCut _ init | initDone init => exact absurd init notInit
  | undecodable w e fetched decoded =>
    exact .inr ⟨w, causeOf e, fetched, fun i ok => (nomatch ok.symm.trans decoded), rfl⟩
  | turnedAway w i fetched decoded =>
    refine .inr ⟨w, check i u, fetched, fun _ _ => check_afterHandoff notDriving i, ?_⟩
    rw [← encodeDecodeAgree w i decoded]
    rfl
  | commandCut _ _ _ _ _ passed | completed _ _ _ _ passed => exact absurd (hostDriving_of_passed passed) notDriving

/-- Settles O16: an idle turn changes nothing, and turning a word away moves no pin. -/
theorem noBusActivityAfterHandoff : Obligations.NoBusActivityAfterHandoff := by
  intro s t stepped phase noReset
  obtain ⟨_, idle, turn⟩ := step_cases stepped
  rcases turn.afterHandoff (by simpa using phase) (by simpa using noReset) with
    ⟨nothing, rfl⟩ | ⟨w, f, fetched, cause, rfl⟩
  · refine ⟨by simp, by simp, by simp, by simpa using phase, fun _ _ => rfl,
      fun w rest i source noFault words _ => ?_⟩
    have fetched := fetchWord_external source (by simp [phase]) idle noFault words
    exact nomatch ((fetchWord_targetTurn s).symm.trans nothing).symm.trans fetched
  · rw [fetchWord_targetTurn] at fetched
    refine ⟨by simp [turnedAwayWith], by simp [turnedAwayWith], by simp [turnedAwayWith],
      by simpa [turnedAwayWith] using phase, fun source done => ?_, fun v rest i source noFault words decoded => ?_⟩
    · exact absurd ((fetchWord_accepting fetched).bootLeft source) (by simp [done])
    · obtain rfl : w = v := Option.some.inj
        (fetched.symm.trans (fetchWord_external source (by simp [phase]) idle noFault words))
      exact ⟨rfl, cause i decoded, rfl⟩

end Sys2Proof.Machine
end

section
/-! Proofs: HANDOFF as a command (43_sequencer.md R102). -/

namespace Sys2Proof.Machine

/-- While the host does not drive AD and the target is held, the AD wires float, or the memory device alone answers. -/
theorem adWires_released {p : Pins} {s : State} (idle : p.adDir = .idle) (held : s.tgt = .held) :
    adWires p s = .z ∨ adWires p s = .level (deviceResp s.cfg.dev s.extMem s.extLatch) := by
  rw [adWires_idle_held idle held]
  split
  · exact .inr rfl
  · exact .inl rfl

/-- The state HANDOFF's sequence leaves, where `ad` and `ad'` are what the AD wires carry once /RD floats. -/
def handedOffState (ctrl : HandoffCtrl) (ad ad' : Wires 8) (s : State) : State :=
  { s with
    pins := { s.pins with
      haDir := .idle, resetNOut := true
      ctrlDir := match ctrl with
        | .keepDriven => .driving
        | .tristate => .idle }
    phase := .targetRunning
    tgt := .running
    traceRev := (match ctrl with
      | .keepDriven =>
        [⟨{ s.pins with haDir := .idle, resetNOut := true }, .z⟩, ⟨{ s.pins with haDir := .idle }, .z⟩]
      | .tristate =>
        [⟨{ s.pins with haDir := .idle, ctrlDir := .idle, resetNOut := true }, ad'⟩,
         ⟨{ s.pins with haDir := .idle, ctrlDir := .idle }, ad⟩, ⟨{ s.pins with haDir := .idle }, .z⟩])
      ++ s.traceRev
    drawCount := s.drawCount + pinSteps (handoffActs ctrl) }

theorem runActs_handoffActs {s : State} (h : BusRest s) (ctrl : HandoffCtrl) :
    ∃ ad ad', (∀ w ∈ [ad, ad'], w = .z ∨ w = .level (deviceResp s.cfg.dev s.extMem s.extLatch)) ∧
      runActs (handoffActs ctrl) s = handedOffState ctrl ad ad' s := by
  obtain ⟨cfg, ⟨adOut, adDir, ahOut, a14Out, haDir, aleOut, wrNOut, rdNOut, resetNOut, ctrlDir, rstDir⟩⟩ := s
  obtain ⟨h1, h2, h3, h4, h5, h6, h7, h8, h9⟩ := h
  simp only at h1 h2 h3 h4 h5 h6 h7 h8 h9
  subst h1 h2 h3 h4 h5 h6 h7 h8 h9
  cases ctrl with
  | keepDriven => exact ⟨.z, .z, by simp, rfl⟩
  | tristate =>
    refine ⟨_, _, List.forall_mem_cons.2 ⟨?_, List.forall_mem_singleton.2 ?_⟩, rfl⟩
    · exact adWires_released rfl rfl
    · exact adWires_released rfl rfl

/-- Settles O38: HANDOFF has no check left in HOST_DRIVING, so it runs its sequence and completes. -/
theorem handoffReleasesThenRuns : Obligations.HandoffReleasesThenRuns := by
  intro s ready
  have passed : check .handoff s = .noFault := check_hostDriving ready.phase .handoff
  obtain ⟨ad, ad', answered, ran⟩ := runActs_handoffActs (ready.setBusy true).rest s.cfg.handoffCtrl
  refine ⟨_, ad, ad', exec_of_passed passed, answered, ?_⟩
  rw [commandActs, ran, completed, observed_completed]
  rfl

end Sys2Proof.Machine
end

section
/-! Proofs: the boot run from power-on (43_sequencer.md R101, R105). After the reset sequence it is the boot sequence's
commands one after the other, so what it leaves is read off their own effects. -/

namespace Sys2Proof.Machine

/-! The boot run is the boot sequence. -/

/-- A step of the machine is the first of its run. -/
theorem core_run_succ {s t : State} (stepped : step s = .next t) (n : Nat) :
    Sys2Proof.core.run (n + 1) s = Sys2Proof.core.run n t := by
  have stepped : Sys2Proof.core.step s = .next t := stepped
  simp only [Host.Core.run, stepped]

/-- Every command answers a next state, so a sequence of commands that answers one goes through the first's. -/
theorem execAll_cons_cases {i : Instr} {rest : List Instr} {s t : State} (h : execAll (i :: rest) s = .next t) :
    ∃ u, exec i s = .next u ∧ execAll rest u = .next t := by
  have first := exec_eq_runCommand i s
  rw [execAll_cons_next first] at h
  exact ⟨_, first, h⟩

@[simp] theorem completed_hostReset (s : State) : (completed s).hostReset = s.hostReset := by simp [completed]

/-- A boundary of the boot run, with `k` commands completed and no host reset on its way. -/
structure BootedTo (cfg : Config) (k : Nat) (s : State) : Prop where
  sound    : BootSound s
  cfg_eq   : s.cfg = cfg
  noReset  : s.hostReset = none
  pastInit : s.phase ≠ .init
  pc       : s.bootPc.toNat = k

section
variable {cfg : Config} {k : Nat} {s t : State}

theorem BootedTo.hostReady (h : BootedTo cfg k s) (left : k < 4) : HostReady s := by
  refine h.sound.boundary.hostReady (h.sound.hostDriving h.pastInit fun done => ?_)
  have pc := h.pc
  rw [done] at pc
  exact absurd pc left.ne'

/-- The next step runs the next command of the boot sequence. -/
theorem BootedTo.step_eq (h : BootedTo cfg k s) (wf : cfg.wf = true) {i : Instr}
    (next : (bootSequence cfg)[k]? = some i) : step s = exec i s := by
  have left : k < 4 := (List.getElem?_eq_some_iff.1 next).1
  have held := (h.hostReady left).rest.held
  obtain ⟨sound, rfl, noReset, pastInit, rfl⟩ := h
  have fetched : fetchWord s = some (encode i) :=
    (fetchWord_boot sound.source pastInit sound.boundary.notBusy sound.noFault left).trans
      (bootRom_getElem?_eq_some.2 ⟨i, next, rfl⟩)
  rw [step_of_command wf noReset sound.boundary.notBusy fetched (decodeEncodeAgree i), targetTurn_held held,
    acceptWord_boot sound.source]

/-- The command completes, and the boot run is one command further. -/
theorem BootedTo.next (h : BootedTo cfg k s) (wf : cfg.wf = true) {i : Instr}
    (next : (bootSequence cfg)[k]? = some i) (done : exec i s = .next t) : BootedTo cfg (k + 1) t := by
  have stepped := (h.step_eq wf next).trans done
  have left : k < 4 := (List.getElem?_eq_some_iff.1 next).1
  have driving := (h.hostReady left).phase
  obtain ⟨sound, rfl, noReset, pastInit, rfl⟩ := h
  have passed := check_bootSequence wf driving next
  have forward := phaseOnlyMovesForward s t stepped noReset
  obtain rfl := Host.Outcome.next.inj ((exec_of_passed passed).symm.trans done)
  refine ⟨bootSequenceNeverFaults s _ sound stepped, configurationIsNeverWritten s _ stepped, by simpa using noReset,
    fun init => ?_, ?_⟩
  · rw [driving, init] at forward
    exact absurd forward (by decide)
  · rw [completed_bootPc, bootPcAfter, sound.source]
    bv_omega

/-- What is left of the boot sequence runs as the machine's next steps. -/
theorem BootedTo.run (h : BootedTo cfg k s) (wf : cfg.wf = true) {is : List Instr}
    (left : (bootSequence cfg).drop k = is) (done : execAll is s = .next t) :
    Sys2Proof.core.run is.length s = .next t ∧ BootedTo cfg (k + is.length) t := by
  induction is generalizing k s with
  | nil =>
    cases done
    exact ⟨rfl, h⟩
  | cons i rest ih =>
    obtain ⟨u, first, later⟩ := execAll_cons_cases done
    have next : (bootSequence cfg)[k]? = some i := by rw [← List.head?_drop, left, List.head?_cons]
    have tail : (bootSequence cfg).drop (k + 1) = rest := by rw [← List.tail_drop, left, List.tail_cons]
    obtain ⟨ran, booted⟩ := ih (h.next wf next first) tail later
    refine ⟨?_, ?_⟩
    · rw [List.length_cons, core_run_succ ((h.step_eq wf next).trans first), ran]
    · rw [Nat.add_right_comm] at booted
      exact booted

end

/-! Power-on and the reset sequence. -/

section
variable {cfg : Config} {mem : Memory}

theorem powerOn_bootSound (source : cfg.cmdSource = .boot) (memWf : Memory.wf mem = true) (latch : Addr)
    (tgt : Target) : BootSound (State.powerOn cfg mem latch tgt) :=
  have notDone : (0 : BitVec 3) ≠ 4 := by decide
  ⟨powerOn_boundary cfg memWf latch tgt, source, rfl, iff_of_false nofun notDone⟩

/-- The first step is the reset sequence (R121). -/
theorem step_powerOn (wf : cfg.wf = true) (mem : Memory) (latch : Addr) (tgt : Target) :
    step (State.powerOn cfg mem latch tgt) = .next (runInit (State.powerOn cfg mem latch tgt)) := by
  have wf : (State.powerOn cfg mem latch tgt).cfg.wf = true := wf
  rw [step, turn, if_pos wf, targetTurn_init rfl]
  rfl

theorem runInit_bootedTo (wf : cfg.wf = true) (source : cfg.cmdSource = .boot) (memWf : Memory.wf mem = true)
    (latch : Addr) (tgt : Target) : BootedTo cfg 0 (runInit (State.powerOn cfg mem latch tgt)) :=
  ⟨bootSequenceNeverFaults _ _ (powerOn_bootSound source memWf latch tgt) (step_powerOn wf mem latch tgt), rfl, rfl,
    nofun, rfl⟩

/-- The boot run from power-on is the reset sequence and the four commands, and with BOOT_PC 4 it has ended well. -/
theorem bootRun (wf : cfg.wf = true) (source : cfg.cmdSource = .boot) (memWf : Memory.wf mem = true) (latch : Addr)
    (tgt : Target) {t : State}
    (done : execAll (bootSequence cfg) (runInit (State.powerOn cfg mem latch tgt)) = .next t) :
    Sys2Proof.core.run 5 (State.powerOn cfg mem latch tgt) = .next t ∧ t.Final ∧ t.bootPc = 4 := by
  obtain ⟨ran, booted⟩ := (runInit_bootedTo wf source memWf latch tgt).run wf rfl done
  have pc : t.bootPc = 4 := BitVec.eq_of_toNat_eq booted.pc
  refine ⟨(core_run_succ (step_powerOn wf mem latch tgt) 4).trans ran,
    ⟨booted.sound.pcPhase.2 pc, booted.sound.boundary.notBusy, booted.sound.noFault, ?_⟩, pc⟩
  rw [State.NoneLeft, booted.sound.source]
  exact pc

end

/-! What the boot sequence does to the memory and the results (R86 to R90, R102). -/

/-- The memory and the mismatches of the boot sequence's self-test, on the device alone. -/
def bootSweep (s : State) : Tallied := refSweep s.cfg.dev s.cfg.stStart s.cfg.stLen.toNat s.cfg.stStrategy s.extMem

/-- What the boot sequence leaves in the memory and in the results, given the tallies of its two counting passes. -/
structure BootEffect (stTally vfTally : Count) (s t : State) : Prop where
  mem       : t.extMem = refProgram s.cfg.dev s.cfg.image (bootSweep s).1
  results   : t.results =
    { phase := .targetRunning, stErrors := stTally, stTested := testedCount s.cfg.stLen, stPass := passed stTally,
      stDone := true, pgWritten := BitVec.ofNat 32 s.cfg.image.length, pgDone := true, vfErrors := vfTally,
      vfChecked := BitVec.ofNat 32 s.cfg.image.length, vfPass := passed vfTally, vfDone := true }
  stCounted : s.cfg.settleOk = true → stTally = BitVec.ofNat 32 (bootSweep s).2
  vfCounted : s.cfg.settleOk = true → vfTally = BitVec.ofNat 32 (refMismatches s.cfg.dev s.cfg.image t.extMem)

/-- The four commands' effects, one after the other. -/
theorem execAll_bootSequence {s : State} (ready : HostReady s) (wf : s.cfg.wf = true) :
    ∃ t stTally vfTally, execAll (bootSequence s.cfg) s = .next t ∧ BootEffect stTally vfTally s t := by
  obtain ⟨legal, fits⟩ := config_bounds wf
  obtain ⟨t₁, stTally, done₁, counted₁, mem₁, outside₁, ready₁, -⟩ :=
    selftestComputesTheSweep s.cfg.stStart s.cfg.stLen s.cfg.stStrategy s ready legal
  have cfg₁ : t₁.cfg = s.cfg := (congrArg State.cfg outside₁ :)
  obtain ⟨t₂, done₂, mem₂, outside₂, -, ready₂, -⟩ := programStoresTheImage t₁ ready₁ (cfg₁ ▸ fits)
  have cfg₂ : t₂.cfg = s.cfg := (congrArg State.cfg outside₂ :).trans cfg₁
  obtain ⟨t₃, vfTally, seen, done₃, -, -, -, -, counted₃, mem₃, outside₃, ready₃, -⟩ :=
    verifyCountsMismatches t₂ ready₂ (cfg₂ ▸ fits)
  obtain ⟨t, ad, ad', done, -, observed⟩ := handoffReleasesThenRuns t₃ ready₃
  have mem : t.extMem = t₂.extMem := (congrArg State.extMem observed :).trans mem₃
  refine ⟨t, stTally, vfTally, ?_, ?_, ?_, counted₁, fun ok => ?_⟩
  · rw [bootSequence, bootSelftest, execAll_cons_next done₁, execAll_cons_next done₂, execAll_cons_next done₃,
      execAll_cons_next done, execAll]
  · rw [mem, mem₂, cfg₁, mem₁, bootSweep]
  · have results₁ : t₁.results =
        { s.results with
          stErrors := stTally, stTested := testedCount s.cfg.stLen, stPass := passed stTally, stDone := true } :=
      congrArg State.results outside₁
    have results₂ : t₂.results =
        { t₁.results with pgWritten := BitVec.ofNat 32 t₁.cfg.image.length, pgDone := true } :=
      congrArg State.results outside₂
    have results₃ : t₃.results =
        { t₂.results with
          vfErrors := vfTally, vfChecked := BitVec.ofNat 32 t₂.cfg.image.length, vfPass := passed vfTally
          vfDone := true } :=
      congrArg State.results outside₃
    have results : t.results = { t₃.results with phase := .targetRunning } := congrArg State.results observed
    rw [results, results₃, results₂, results₁, cfg₂, cfg₁]
  · rw [(counted₃ (cfg₂ ▸ ok)).2, cfg₂, mem]

/-- Settles O56: the boot run is the boot sequence, and each pass writes its results. -/
theorem bootRunEndsWell : Obligations.BootRunEndsWell := by
  intro cfg mem latch tgt wf source memWf
  have booted := runInit_bootedTo wf source memWf latch tgt
  obtain ⟨t, stTally, vfTally, done, effect⟩ := execAll_bootSequence (booted.hostReady (by decide)) wf
  obtain ⟨ran, final, pc⟩ := bootRun wf source memWf latch tgt done
  have results := effect.results
  exact ⟨t, ran, final, pc, congrArg Results.stDone results, congrArg Results.pgDone results,
    congrArg Results.vfDone results⟩

/-! On fault-free memory (R92, R93). -/

/-- A self-test of IDEAL misses nothing, and leaves a canonical memory. -/
theorem refSweep_ideal (start : Addr) (len : Nat) (strat : Strategy) {m : Memory} (wf : Memory.wf m = true) :
    (refSweep .ideal start len strat m).2 = 0 ∧ Memory.wf (refSweep .ideal start len strat m).1 = true := by
  have swept := swept_sweep holdsCells_ideal start len strat wf
  refine ⟨?_, swept.wf⟩
  rw [swept.misses, Nat.zero_add]
  exact List.sum_eq_zero (by simp [cellMisses_ideal])

/-- On IDEAL with SETTLE_OK every pass succeeds and the image lies in the memory (R92, R93). -/
theorem BootEffect.onIdeal {stTally vfTally : Count} {s t : State} (effect : BootEffect stTally vfTally s t)
    (wf : s.cfg.wf = true) (ideal : s.cfg.dev = .ideal) (settles : s.cfg.settleOk = true)
    (memWf : Memory.wf s.extMem = true) :
    t.stPass = true ∧ t.vfPass = true ∧ t.vfErrors = 0 ∧ t.pgWritten.toNat = s.cfg.image.length ∧
      ∀ (i : Nat) (h : i < s.cfg.image.length), Memory.read t.extMem (BitVec.ofNat 15 i) = s.cfg.image[i] := by
  obtain ⟨mem, results, stCounted, vfCounted⟩ := effect
  obtain ⟨_, fits⟩ := config_bounds wf
  obtain ⟨noMiss, sweptWf⟩ : (bootSweep s).2 = 0 ∧ Memory.wf (bootSweep s).1 = true := by
    rw [bootSweep, ideal]
    exact refSweep_ideal _ _ _ memWf
  rw [ideal] at mem
  obtain rfl : stTally = 0 := by
    rw [stCounted settles, noMiss]
    rfl
  obtain rfl : vfTally = 0 := by
    rw [vfCounted settles, ideal, mem, refMismatches_refProgram_ideal fits sweptWf]
    rfl
  refine ⟨congrArg Results.stPass results, congrArg Results.vfPass results, congrArg Results.vfErrors results, ?_,
    fun i hi => ?_⟩
  · have written : t.pgWritten = BitVec.ofNat 32 s.cfg.image.length := congrArg Results.pgWritten results
    rw [written, BitVec.toNat_ofNat]
    omega
  · rw [mem, refProgram_eq_storeAll]
    exact read_storeAll_visited (visited_indexedImage_nodup fits) (mem_indexedImage hi) sweptWf

/-- Settles O57: the boot run is the boot sequence, and the reset sequence leaves the configuration and a canonical
memory. -/
theorem bootRunLoadsTheImage : Obligations.BootRunLoadsTheImage := by
  intro cfg mem latch tgt wf source ideal settles memWf
  have booted := runInit_bootedTo wf source memWf latch tgt
  obtain ⟨t, stTally, vfTally, done, effect⟩ := execAll_bootSequence (booted.hostReady (by decide)) wf
  obtain ⟨ran, -⟩ := bootRun wf source memWf latch tgt done
  exact ⟨t, ran, effect.onIdeal wf ideal settles booted.sound.boundary.memWf⟩

end Sys2Proof.Machine
end

section
/-! Proofs: a faulted block and a command that a check turns away (60_exceptions.md R107 to R109). -/

namespace Sys2Proof.Machine

/-! A faulted block (R109). -/

/-- Settles O15: a faulted block has no word to take, so its step is the target's turn alone. -/
theorem faultedBlockIsQuiescent : Obligations.FaultedBlockIsQuiescent := by
  intro s wf idle fault pastInit noReset
  have nothing : fetchWord s = none := Option.eq_none_iff_forall_ne_some.2 (fetchWord_faulted fault)
  have stepped : step s = .next (targetTurn s) := step_of_noFetch wf noReset idle pastInit nothing
  refine ⟨stepped, fun held => ?_, targetTurn_pins s, targetTurn_traceRev s, targetTurn_issuer s, targetTurn_env s⟩
  rw [stepped, targetTurn_held held]

/-! A command that a check turns away (R107, R108). -/

/-- Settles O11: outside HOST_DRIVING every command is turned away by its phase; inside, each of the three commands with
a check of its own is turned away by that check. -/
theorem checksTurnAwayInOrder : Obligations.ChecksTurnAwayInOrder := by
  intro i s
  refine ⟨fun notDriving => exec_of_turnedAway (check_afterHandoff notDriving i) nofun, fun driving => ⟨?_, ?_, ?_⟩⟩
  · rintro a n b rfl tooLong
    exact exec_of_turnedAway ((check_hostDriving driving _).trans (if_pos tooLong)) nofun
  · rintro v rfl unarmed
    exact exec_of_turnedAway ((check_hostDriving driving _).trans (if_neg (Bool.eq_false_iff.1 unarmed))) nofun
  · rintro rfl noAddress
    exact exec_of_turnedAway ((check_hostDriving driving _).trans (if_neg (Bool.eq_false_iff.1 noAddress))) nofun

end Sys2Proof.Machine
end

section
/-! Proofs: the target's state after one pin micro-operation (10_state.md R43, 60_exceptions.md R116, R117). -/

namespace Sys2Proof.Machine

/-- Every pin step leaves the target as the /RESET wire before and after it says. -/
theorem doAct_tgt {a : Act} (isPin : a.isPinStep = true) (s : State) :
    (doAct a s).tgt = targetAfter s.pins (doAct a s).pins s := by
  cases a with
  | setOut | setDir | setLine | wait | sample => rfl
  | emit | reg => exact nomatch isPin

/-- While /RESET is low the target is held (R116). -/
theorem targetAfter_of_low {after : Pins} (low : after.resetWire = .low) (before : Pins) (s : State) :
    targetAfter before after s = .held := by
  rw [targetAfter, low]

/-- With /RESET high the target runs on from a high wire and starts from any other (R117, log 12). -/
theorem targetAfter_of_high {after : Pins} (high : after.resetWire = .high) (before : Pins) (s : State) :
    targetAfter before after s = if before.resetWire = .high then s.tgt else .running := by
  rw [targetAfter, high]

/-- Settles O46: a pin step's reaction is `targetAfter`, by the level of /RESET it leaves and, where that is high, by
the one it found. -/
theorem targetFollowsResetLine : Obligations.TargetFollowsResetLine := by
  intro a s isPin
  rw [doAct_tgt isPin s]
  refine ⟨fun low => targetAfter_of_low low _ s, fun wasLow high => ?_, fun wasHigh high => ?_⟩
  · rw [targetAfter_of_high high, if_neg (by simp [wasLow])]
  · rw [targetAfter_of_high high, if_pos wasHigh]

end Sys2Proof.Machine
end

section
/-! Proofs: a command past its checks (70_reset_and_hazards.md R135), and how many snapshots each command records
(R136). -/

namespace Sys2Proof.Machine

/-! An issuer that keeps its obligations (R135). -/

/-- R135's obligations are the checks of R107. -/
theorem check_of_kept {i : Instr} {s : State} (driving : s.phase = .hostDriving)
    (length : ∀ a n b, i = .selftest a n b → n.toNat ≤ 0x8000) (armed : ∀ v, i = .write v → s.writeArmed = true)
    (valid : i = .read → s.addrValid = true) : check i s = .noFault := by
  rw [check_hostDriving driving]
  cases i with
  | latch | program | verify | handoff => rfl
  | write v => exact if_pos (armed v rfl)
  | read => exact if_pos (valid rfl)
  | selftest a n b => exact if_neg (Nat.not_lt.2 (length a n b rfl))

/-- Settles O12: what follows a command's sequence clears BUSY and moves BOOT_PC on, and no entry writes the fault
record. -/
theorem keptObligationsNeverFault : Obligations.KeptObligationsNeverFault := by
  intro i s driving length armed valid
  refine ⟨_, exec_of_passed (check_of_kept driving length armed valid), ?_⟩
  refine ⟨by simp [completed], by simp [completed], by simp [completed], rfl, by simp, ?_⟩
  simp [completed, bootPcAfter]

/-! The pin steps of a sequence (R136). -/

theorem pinSteps_append (acts acts' : List Act) : pinSteps (acts ++ acts') = pinSteps acts + pinSteps acts' :=
  List.countP_append

/-- A register write or an event in front is no pin step. -/
theorem pinSteps_cons_of_none {a : Act} (h : a.isPinStep = false) (acts : List Act) :
    pinSteps (a :: acts) = pinSteps acts := List.countP_cons_of_neg (Bool.eq_false_iff.1 h)

/-- A loop has as many pin steps for each of its rounds as its body has. -/
theorem pinSteps_flatMap {α : Type} {body : α → List Act} {n : Nat} (each : ∀ x, pinSteps (body x) = n)
    (l : List α) : pinSteps (l.flatMap body) = n * l.length := by
  induction l with
  | nil => rfl
  | cons x rest ih => rw [List.flatMap_cons, pinSteps_append, each, ih, List.length_cons, Nat.mul_succ, Nat.add_comm]

theorem length_indexedImage (image : List Byte) : (indexedImage image).length = image.length := by
  simp [indexedImage]

/-- PATTERN has four bytes (R34). -/
theorem length_indexedPatterns : indexedPatterns.length = 4 := rfl

/-- Strategy (a): for each pattern a LATCH, a WRITE and a READ. -/
theorem pinSteps_testAddrActs (start : Addr) (k : Nat) : pinSteps (testAddrActs start k) = 68 := by
  have each (jp : Nat × Byte) : pinSteps (testCellActs (rangeAddr start k) jp) = 17 := rfl
  rw [testAddrActs, pinSteps_cons_of_none rfl, pinSteps_flatMap each, length_indexedPatterns]

/-- Strategy (b): for each pattern, each address is latched and written, then latched and read. -/
theorem pinSteps_testPatternActs (start : Addr) (len : Nat) (jp : Nat × Byte) :
    pinSteps (testPatternActs start len jp) = 25 * len := by
  have fill := pinSteps_flatMap (body := fillCellActs start jp.2) (n := 13) (fun _ => rfl) (List.range len)
  have readBack := pinSteps_flatMap (body := readBackActs start jp.2) (n := 12) (fun _ => rfl) (List.range len)
  rw [List.length_range] at fill readBack
  rw [testPatternActs, pinSteps_cons_of_none rfl, pinSteps_append, fill, readBack, ← Nat.add_mul]

theorem pinSteps_sweepActs_perAddress (start : Addr) (len : Nat) :
    pinSteps (sweepActs start len .perAddress) = 68 * len := by
  rw [sweepActs, pinSteps_flatMap (pinSteps_testAddrActs start), List.length_range]

theorem pinSteps_sweepActs_perPattern (start : Addr) (len : Nat) :
    pinSteps (sweepActs start len .perPattern) = 100 * len := by
  rw [sweepActs, pinSteps_flatMap (pinSteps_testPatternActs start len), length_indexedPatterns, Nat.mul_right_comm]

/-- Clearing the tally, the results and the event are no pin steps (R80). -/
theorem pinSteps_selftestActs (start : Addr) (len : BitVec 16) (strat : Strategy) :
    pinSteps (selftestActs start len strat) = pinSteps (sweepActs start len.toNat strat) := by
  have report : pinSteps [.reg (.selftestDone len), .emit .stResult] = 0 := rfl
  rw [selftestActs, pinSteps_cons_of_none rfl, pinSteps_append, report, Nat.add_zero]

/-- Each image byte a LATCH and a WRITE. -/
theorem pinSteps_programActs (image : List Byte) : pinSteps (programActs image) = 13 * image.length := by
  have loop := pinSteps_flatMap (body := programByteActs) (n := 13) (fun _ => rfl) (indexedImage image)
  have report : pinSteps [.reg .programDone] = 0 := rfl
  rw [programActs, pinSteps_append, loop, length_indexedImage, report, Nat.add_zero]

/-- Each image byte a LATCH and a READ. -/
theorem pinSteps_verifyActs (image : List Byte) : pinSteps (verifyActs image) = 12 * image.length := by
  have loop := pinSteps_flatMap (body := verifyByteActs) (n := 12) (fun _ => rfl) (indexedImage image)
  have report : pinSteps [.reg .verifyDone, .emit .vfResult] = 0 := rfl
  rw [verifyActs, pinSteps_cons_of_none rfl, pinSteps_append, loop, length_indexedImage, report, Nat.add_zero]

/-- A completed command records the snapshots of its sequence. -/
theorem exec_trace_length {i : Instr} {s t : State} (passed : check i s = .noFault) (h : exec i s = .next t) :
    t.traceRev.length = s.traceRev.length + pinSteps (commandActs s.cfg i) := by
  cases (exec_of_passed passed).symm.trans h
  rw [completed_traceRev, runActs_trace_length, setBusy_traceRev]

/-- Settles O37: one count per command's sequence, and a command that is turned away runs none. -/
theorem pinStepsPerCommand : Obligations.PinStepsPerCommand := by
  intro i s t h
  by_cases passed : check i s = .noFault
  · rw [exec_trace_length passed h, if_pos passed]
    congr 1
    cases i with
    | latch | write | read => rfl
    | selftest start len strat =>
      cases strat with
      | perAddress => exact (pinSteps_selftestActs _ _ _).trans (pinSteps_sweepActs_perAddress _ _)
      | perPattern => exact (pinSteps_selftestActs _ _ _).trans (pinSteps_sweepActs_perPattern _ _)
    | program => exact pinSteps_programActs _
    | verify => exact pinSteps_verifyActs _
    | handoff =>
      simp only [commandActs]
      cases s.cfg.handoffCtrl <;> rfl
  · cases (exec_of_turnedAway rfl passed).symm.trans h
    rw [if_neg passed]
    rfl

end Sys2Proof.Machine
end

section
/-! Proofs: the reset sequence and a host reset at a boundary (10_state.md R46, 70_reset_and_hazards.md R121, R122). -/

namespace Sys2Proof.Machine

/-! The reset sequence (R121). -/

/-- From the pins at reset, with no address on record, the reset sequence hands the bus to the host (R46). -/
theorem runInit_hostReady {s : State} (pins : s.pins = Pins.atReset) (unsettled : s.rdSettled = false)
    (valid : s.addrValid = false) (armed : s.writeArmed = false) : HostReady (runInit s) :=
  ⟨runInit_phase s, runInit_rest s pins unsettled, runInit_coherent pins valid armed⟩

/-- In INIT a target takes no turn (R123), so a step is the block's. -/
theorem step_of_init {s : State} (wf : s.cfg.wf = true) (idle : s.busy = false) (init : s.phase = .init)
    (notNow : s.hostReset ≠ some 0) : step s = .next (initTurn s) := by
  rw [step, turn, if_pos wf, idle, if_neg Bool.false_ne_true, targetTurn_init init]
  simp [blockTurn, duty, notNow, init]

/-- With no host reset on its way the reset sequence runs whole. -/
theorem initTurn_of_noReset {s : State} (noReset : s.hostReset = none) : initTurn s = runInit s := by
  unfold initTurn
  split
  case h_1 k cut => exact absurd cut (cutAt_none noReset)
  case h_2 => exact countDown_of_noReset (by simpa [runInit] using noReset) _

/-- Of a block at power-on the reset sequence writes PHASE, the pins and PIN_TRACE, and it holds the target. -/
theorem runInit_powerOn (cfg : Config) (mem : Memory) (latch : Addr) (tgt : Target) :
    { (runInit (State.powerOn cfg mem latch tgt)).observed with traceRev := [] } =
      { (State.powerOn cfg mem latch .held).observed with
        phase := .hostDriving
        pins := { Pins.atReset with wrNOut := true, rdNOut := true, ctrlDir := .driving, rstDir := .driving } } := rfl

/-- The pin drivers after each pin step of the reset sequence (R121). -/
def initPins : List Pins :=
  let driven : Pins := { Pins.atReset with rstDir := .driving }
  let high : Pins := { driven with wrNOut := true, rdNOut := true }
  let idle : Pins := { high with ctrlDir := .driving }
  [Pins.atReset, driven, driven, { driven with wrNOut := true }, high, idle, idle, idle]

theorem runInit_pinTrace (cfg : Config) (mem : Memory) (latch : Addr) (tgt : Target) :
    (runInit (State.powerOn cfg mem latch tgt)).pinTrace.map Snapshot.pins = initPins := rfl

/-- PINS after each pin step of the reset sequence (R39, R121). -/
theorem pinsWord_initPins :
    initPins.map pinsWord =
      [0x0000_0000, 0x0040_0000, 0x0040_0000, 0x0044_0000, 0x004C_0000, 0x006C_0000, 0x006C_0000, 0x006C_0000] := by
  decide

/-- PINS while the host holds the bus (R39, R46). -/
theorem pinsWord_afterInit :
    pinsWord { Pins.atReset with wrNOut := true, rdNOut := true, ctrlDir := .driving, rstDir := .driving }
      = 0x006C_0000 := by decide

/-- Settles O40: the first step is the reset sequence, whose pins are computed entry by entry. -/
theorem resetSequenceHoldsTheTarget : Obligations.ResetSequenceHoldsTheTarget := by
  intro cfg mem latch tgt wf
  refine ⟨_, step_powerOn wf mem latch tgt, runInit_hostReady rfl rfl rfl rfl, ?_, pinsWord_afterInit, rfl,
    runInit_powerOn cfg mem latch tgt⟩
  calc (runInit (State.powerOn cfg mem latch tgt)).pinTrace.map (fun n => pinsWord n.pins)
      = initPins.map pinsWord := by rw [← runInit_pinTrace cfg mem latch tgt, List.map_map]; rfl
    _ = _ := pinsWord_initPins

/-! A host reset (R122). -/

/-- Off a low /WR wire the memory stays (U16). -/
theorem memAtReset_of_not_low {s : State} (h : wrWire s.pins s ≠ .low) : memAtReset s = s.extMem := if_neg h

/-- Under a low /WR wire the latched cell becomes a free value (U16). -/
theorem memAtReset_of_low {s : State} (h : wrWire s.pins s = .low) :
    memAtReset s = Memory.write s.extMem s.extLatch (Config.freeResetCell s.drawCount) := if_pos h

/-- Off a high ALE wire the latch stays (U17). -/
theorem latchAtReset_of_not_high {s : State} (h : aleWire s.pins s ≠ .high) : latchAtReset s = s.extLatch := if_neg h

/-- R122, R46: wherever it falls, a host reset resets the block over what it found. -/
theorem takeHostReset_resetOver (u : State) : ResetOver u (takeHostReset u) where
  block := rfl
  mem := memAtReset_of_not_low
  cell := by
    refine ⟨Config.freeResetCell u.drawCount, ?_⟩
    by_cases low : wrWire u.pins u = .low
    · exact .inr (memAtReset_of_low low)
    · exact .inl (memAtReset_of_not_low low)
  latch := latchAtReset_of_not_high

@[simp] theorem takeHostReset_hostReset (s : State) : (takeHostReset s).hostReset = none := rfl

/-- A host reset that is due at a boundary is taken there. -/
theorem step_of_hostReset {s : State} (wf : s.cfg.wf = true) (idle : s.busy = false) (now : s.hostReset = some 0) :
    step s = .next (takeHostReset (targetTurn s)) := by
  rw [step, turn, if_pos wf, idle, if_neg Bool.false_ne_true]
  simp [blockTurn, duty, now]

/-- At a boundary with the target held /WR is not low and ALE is not high: the host leaves its lines floating or drives
them at their idle levels (R19, R46). -/
theorem PhaseShape.strobes_idle {s : State} (h : PhaseShape s) (held : s.tgt = .held) :
    wrWire s.pins s ≠ .low ∧ aleWire s.pins s ≠ .high := by
  rw [wrWire_held held, aleWire_held held, Pins.wrLine, Pins.aleLine]
  unfold PhaseShape at h
  split at h
  case h_1 =>
    obtain ⟨atReset, _⟩ := h
    rw [atReset]
    exact ⟨nofun, nofun⟩
  case h_2 =>
    obtain ⟨rest, _⟩ := h
    rw [rest.ctrlDriven, rest.wrHigh, rest.aleLow]
    exact ⟨nofun, nofun⟩
  case h_3 => exact h.elim
  case h_4 =>
    obtain ⟨_, _, _, _, _, _, _, running⟩ := h
    exact nomatch held.symm.trans running

/-- Then a host reset keeps the environment. -/
theorem takeHostReset_env {s : State} (h : PhaseShape s) (held : s.tgt = .held) :
    (takeHostReset s).extMem = s.extMem ∧ (takeHostReset s).extLatch = s.extLatch := by
  obtain ⟨notLow, notHigh⟩ := h.strobes_idle held
  exact ⟨memAtReset_of_not_low notLow, latchAtReset_of_not_high notHigh⟩

/-- Settles O41: the step takes the reset after the target's turn, and the next one runs the reset sequence whole. -/
theorem hostResetAtBoundary : Obligations.HostResetAtBoundary := by
  intro s boundary wf now
  have resetStep := step_of_hostReset wf boundary.notBusy now
  have initStep : step (takeHostReset (targetTurn s)) = .next (runInit (takeHostReset (targetTurn s))) := by
    rw [step_of_init (by simpa using wf) rfl rfl (by simp), initTurn_of_noReset rfl]
  have ready : HostReady (runInit (takeHostReset (targetTurn s))) := runInit_hostReady rfl rfl rfl rfl
  obtain ⟨mem, latch⟩ := runInit_env (takeHostReset (targetTurn s)) rfl
  refine ⟨_, _, resetStep, ?_, fun held => ?_, initStep, ready, ready.rest.held, mem, latch⟩
  · have block := (takeHostReset_resetOver (targetTurn s)).block
    rwa [targetTurn_cfg, targetTurn_traceRev, targetTurn_eventsRev, targetTurn_issuer] at block
  · rw [targetTurn_held held]
    exact takeHostReset_env boundary.shape held

end Sys2Proof.Machine
end

section
/-! Proofs: a host reset inside a sequence (70_reset_and_hazards.md R122). The sequence is cut after `k` entries and the
reset taken over the state they have led to; what is left to say of a LATCH and a WRITE is that state's strobes, latch
and memory. -/

namespace Sys2Proof.Machine

/-! A step that is cut. -/

/-- A host reset `k` entries away cuts the command the step takes, if the command is longer (R122). -/
theorem step_of_commandCut {s : State} {w : CmdWord} {i : Instr} {k : Nat} (wf : s.cfg.wf = true)
    (idle : s.busy = false) (held : s.tgt = .held) (fetched : fetchWord s = some w) (decoded : decode w = .ok i)
    (passed : check i s = .noFault) (pending : s.hostReset = some k) (pos : 0 < k)
    (short : k < (commandActs s.cfg i).length) :
    step s = .next (takeHostReset (runActs ((commandActs s.cfg i).take k) (setBusy true (acceptWord s)))) := by
  have cut : cutAt (commandActs s.cfg i).length s = some k := cutAt_eq_some.2 ⟨pending, short⟩
  have turned : blockTurn s = wordTurn w (acceptWord s) := by
    simp [blockTurn, duty, pending, pos.ne', (fetchWord_accepting fetched).pastInit, fetched]
  rw [step, turn, if_pos wf, idle, if_neg Bool.false_ne_true, targetTurn_held held, turned, wordTurn, decoded]
  simp only [commandTurn, plannedActs_acceptWord, plannedActs_passed passed, cutAt_acceptWord, cut]

/-- And so it cuts the reset sequence. -/
theorem step_of_initCut {s : State} {k : Nat} (wf : s.cfg.wf = true) (idle : s.busy = false) (init : s.phase = .init)
    (pending : s.hostReset = some k) (pos : 0 < k) (short : k < initActs.length) :
    step s = .next (takeHostReset (runActs (initActs.take k) s)) := by
  have cut : cutAt initActs.length s = some k := cutAt_eq_some.2 ⟨pending, short⟩
  rw [step_of_init wf idle init (by simp [pending, pos.ne']), initTurn, cut]

/-! The recordings of a sequence. -/

/-- A sequence puts as many snapshots behind PIN_TRACE as it has pin steps (R45, R136). -/
theorem runActs_pinTrace (acts : List Act) (s : State) :
    ∃ new, (runActs acts s).pinTrace = s.pinTrace ++ new ∧ new.length = pinSteps acts := by
  obtain ⟨new, grown⟩ := runActs_trace_grows acts s
  have count := runActs_trace_length acts s
  rw [grown, List.length_append] at count
  refine ⟨new.reverse, ?_, ?_⟩
  · rw [State.pinTrace, grown, List.reverse_append, State.pinTrace]
  · rw [List.length_reverse]
    omega

theorem runActs_events (acts : List Act) (s : State) : ∃ new, (runActs acts s).events = s.events ++ new := by
  obtain ⟨new, grown⟩ := List.reverse_prefix.2 (runActs_records acts s).events
  exact ⟨new, grown.symm⟩

/-- Only an entry `Emit` writes EVENTS (R80). -/
theorem runActs_eventsRev_of_silent {acts : List Act} (silent : ∀ e, Act.emit e ∉ acts) (s : State) :
    (runActs acts s).eventsRev = s.eventsRev := by
  induction acts generalizing s with
  | nil => rfl
  | cons a rest ih =>
    have restSilent : ∀ e, Act.emit e ∉ rest := fun e mem => silent e (List.mem_cons_of_mem a mem)
    rw [runActs_cons, ih restSilent]
    cases a with
    | emit e => exact absurd List.mem_cons_self (silent e)
    | reg r => cases r <;> rfl
    | setOut | setDir | setLine | wait | sample => rfl

/-- A sequence cut short has recorded the first snapshots of the whole. -/
theorem runActs_take_traceRev {acts : List Act} {s : State} {trace : List Snapshot}
    (whole : (runActs acts s).traceRev = trace.reverse ++ s.traceRev) (k : Nat) :
    (runActs (acts.take k) s).traceRev = (trace.take (pinSteps (acts.take k))).reverse ++ s.traceRev := by
  obtain ⟨early, cutTrace⟩ := runActs_trace_grows (acts.take k) s
  obtain ⟨late, rest⟩ := runActs_trace_grows (acts.drop k) (runActs (acts.take k) s)
  have count := runActs_trace_length (acts.take k) s
  rw [cutTrace, List.length_append] at count
  rw [← runActs_append, List.take_append_drop, whole, cutTrace, ← List.append_assoc] at rest
  have parts : trace = early.reverse ++ late.reverse := by
    rw [← List.reverse_append, ← List.append_cancel_right rest, List.reverse_reverse]
  have length : pinSteps (acts.take k) = early.reverse.length := by
    rw [List.length_reverse]
    omega
  rw [cutTrace, parts, length, List.take_left, List.reverse_reverse]

/-! A host reset inside any command and inside the reset sequence. -/

/-- After its second entry the reset sequence holds the target and has moved neither ALE nor /WR off a floating or idle
level, so a host reset there finds the environment as the sequence did. -/
theorem initCut_env {s : State} (pins : s.pins = Pins.atReset) {k : Nat} (two : 2 ≤ k) (short : k < 9) :
    let u := runActs (initActs.take k) s
    u.extMem = s.extMem ∧ u.extLatch = s.extLatch ∧ wrWire u.pins u ≠ .low ∧ aleWire u.pins u ≠ .high := by
  obtain ⟨cfg, _⟩ := s
  subst pins
  interval_cases k <;> exact ⟨rfl, rfl, nofun, nofun⟩

/-- Settles O44: the step takes the reset over the state the sequence has led to, and entries only add to the
recordings. -/
theorem hostResetInsideAnySequence : Obligations.HostResetInsideAnySequence := by
  refine ⟨?_, ?_⟩
  · intro i w s k ready wf idle noFault decoded passed presented pending pos short u
    have pastInit : s.phase ≠ .init := by simp [ready.phase]
    have fetched : fetchWord s = some w := by
      cases source : s.cfg.cmdSource with
      | boot =>
        simp only [source] at presented
        obtain ⟨left, word⟩ := presented
        exact (fetchWord_boot source pastInit idle noFault left).trans word
      | external =>
        simp only [source] at presented
        obtain ⟨rest, words⟩ := List.head?_eq_some_iff.1 presented
        exact fetchWord_external source pastInit idle noFault words
    have stepped := step_of_commandCut wf idle ready.rest.held fetched decoded passed pending pos short
    obtain ⟨new, trace, count⟩ := runActs_pinTrace ((commandActs s.cfg i).take k) (setBusy true (acceptWord s))
    obtain ⟨newEvents, events⟩ := runActs_events ((commandActs s.cfg i).take k) (setBusy true (acceptWord s))
    refine ⟨_, stepped, takeHostReset_resetOver u, ?_, ?_, ⟨new, ?_, count⟩, newEvents, ?_⟩
    · simp
    · have issuer : u.issuer = (acceptWord s).issuer := by simp [u]
      refine Eq.trans issuer ?_
      cases source : s.cfg.cmdSource <;> simp [acceptWord, source]
    · exact trace.trans (by simp [State.pinTrace])
    · exact events.trans (by simp [State.events])
  · intro s k boundary init wf pending pos short u
    obtain ⟨pins, _⟩ := boundary.atInit init
    have silent : u.eventsRev = s.eventsRev :=
      runActs_eventsRev_of_silent (fun e mem => by simpa [initActs] using List.mem_of_mem_take mem) s
    refine ⟨_, step_of_initCut wf boundary.notBusy init pending pos short, takeHostReset_resetOver u, ?_, ?_,
      runActs_pinTrace _ s, congrArg List.reverse silent, fun two => ?_⟩
    · exact runActs_cfg _ s
    · exact runActs_issuer _ s
    · obtain ⟨mem, latch, notLow, notHigh⟩ := initCut_env pins two short
      exact ⟨(memAtReset_of_not_low notLow).trans mem, (latchAtReset_of_not_high notHigh).trans latch⟩

/-! A host reset inside a WRITE or a LATCH of the external issuer. -/

/-- The state an accepted command starts from, with the words `rest` left to the issuer. -/
def entered (rest : List CmdWord) (s : State) : State := setBusy true { s with issuer := rest }

/-- Taking the issuer's word is no bus activity. -/
theorem HostReady.entered {s : State} (h : HostReady s) (rest : List CmdWord) : HostReady (entered rest s) :=
  SameBus.hostReady (s := s) ⟨rfl, rfl, rfl, rfl, rfl, rfl, rfl, rfl⟩ h

/-- A host reset inside the command that the issuer's first word spells. -/
theorem step_of_externalCut {s : State} {w : CmdWord} {rest : List CmdWord} {i : Instr} {k : Nat} (ready : HostReady s)
    (wf : s.cfg.wf = true) (idle : s.busy = false) (noFault : s.fault = false) (source : s.cfg.cmdSource = .external)
    (decoded : decode w = .ok i) (words : s.issuer = w :: rest) (passed : check i s = .noFault)
    (pending : s.hostReset = some k) (pos : 0 < k) (short : k < (commandActs s.cfg i).length) :
    step s = .next (takeHostReset (runActs ((commandActs s.cfg i).take k) (entered rest s))) := by
  have fetched := fetchWord_external source (by simp [ready.phase]) idle noFault words
  rw [step_of_commandCut wf idle ready.rest.held fetched decoded passed pending pos short,
    acceptWord_external source words, entered]

/-- What observation sees of a host reset inside a sequence that records `trace` and no event. -/
theorem observed_cut {acts : List Act} {s : State} {trace : List Snapshot}
    (whole : (runActs acts s).traceRev = trace.reverse ++ s.traceRev) (silent : ∀ e, Act.emit e ∉ acts) {k : Nat}
    {t : State} (taken : t = takeHostReset (runActs (acts.take k) s)) :
    t.observed = { (State.powerOn s.cfg t.extMem t.extLatch t.tgt).observed with
      traceRev := (trace.take (pinSteps (acts.take k))).reverse ++ s.traceRev
      eventsRev := s.eventsRev
      issuer := s.issuer } := by
  have block := (takeHostReset_resetOver (runActs (acts.take k) s)).block
  rwa [← taken, runActs_cfg, runActs_take_traceRev whole,
    runActs_eventsRev_of_silent (fun e mem => silent e (List.mem_of_mem_take mem)), runActs_issuer] at block

/-- `s` with its bus at rest (R19, R46): what a cut primitive is computed from. -/
def State.atRest (s : State) : State :=
  { s with
    pins := { s.pins with
      adDir := .idle, aleOut := false, wrNOut := true, rdNOut := true, resetNOut := false, ctrlDir := .driving
      rstDir := .driving }
    tgt := .held
    rdSettled := false }

theorem BusRest.atRest_eq {s : State} (h : BusRest s) : s.atRest = s := by
  obtain ⟨cfg, ⟨adOut, adDir, ahOut, a14Out, haDir, aleOut, wrNOut, rdNOut, resetNOut, ctrlDir, rstDir⟩⟩ := s
  obtain ⟨h1, h2, h3, h4, h5, h6, h7, h8, h9⟩ := h
  simp only at h1 h2 h3 h4 h5 h6 h7 h8 h9
  subst h1 h2 h3 h4 h5 h6 h7 h8 h9
  rfl

/-- A WRITE never moves ALE. -/
theorem writeCut_latch {s : State} (rest : BusRest s) (v : Byte) {k : Nat} (short : k < 6) :
    let u := runActs ((writeActs v).take k) s
    u.extLatch = s.extLatch ∧ aleWire u.pins u ≠ .high := by
  rw [← rest.atRest_eq]
  interval_cases k <;> exact ⟨rfl, nofun⟩

/-- Before its third entry a WRITE has not moved /WR. -/
theorem writeCut_before {s : State} (rest : BusRest s) (v : Byte) {k : Nat} (early : k < 3) :
    let u := runActs ((writeActs v).take k) s
    u.extMem = s.extMem ∧ wrWire u.pins u ≠ .low := by
  rw [← rest.atRest_eq]
  interval_cases k <;> exact ⟨rfl, nofun⟩

/-- Its third entry drives /WR low. -/
theorem writeCut_strobe {s : State} (rest : BusRest s) (v : Byte) :
    let u := runActs ((writeActs v).take 3) s
    u.extMem = s.extMem ∧ wrWire u.pins u = .low := by
  rw [← rest.atRest_eq]
  exact ⟨rfl, rfl⟩

/-- Its fourth drives /WR high, and the byte is committed (R59). -/
theorem writeCut_after {s : State} (rest : BusRest s) (v : Byte) {k : Nat} (late : 3 < k) (short : k < 6) :
    let u := runActs ((writeActs v).take k) s
    u.extMem = deviceStore s.cfg.dev s.extMem s.extLatch v ∧ wrWire u.pins u ≠ .low := by
  have done : (runActs (writeActs v) s).extMem = deviceStore s.cfg.dev s.extMem s.extLatch v := by
    rw [runActs_writeActs rest, writtenState]
  rw [← done, ← rest.atRest_eq]
  interval_cases k <;> exact ⟨rfl, nofun⟩

/-- Settles O42: the reset is taken over the state that the first `k` entries of the WRITE have led to. -/
theorem hostResetInsideWrite : Obligations.HostResetInsideWrite := by
  intro v s w rest k ready armed wf idle noFault source decoded words pending pos short
  have passed : check (.write v) s = .noFault := (check_hostDriving ready.phase _).trans (if_pos armed)
  have stepped := step_of_externalCut ready wf idle noFault source decoded words passed pending pos short
  have bus : BusRest (entered rest s) := (ready.entered rest).rest
  have whole : (runActs (writeActs v) (entered rest s)).traceRev = (writeTrace v s.pins).reverse ++ s.traceRev := by
    rw [runActs_writeActs bus]
    rfl
  have block := observed_cut whole (by simp [writeActs]) (k := k) rfl
  have steps : pinSteps ((writeActs v).take k) = k := by interval_cases k <;> rfl
  obtain ⟨latch, notHigh⟩ := writeCut_latch bus v short
  have latchKept : (takeHostReset (runActs ((writeActs v).take k) (entered rest s))).extLatch = s.extLatch :=
    (latchAtReset_of_not_high notHigh).trans latch
  refine ⟨_, stepped, ?_, fun early => ?_, ?_, fun late => ?_⟩
  · rwa [steps, latchKept] at block
  · obtain ⟨mem, notLow⟩ := writeCut_before bus v early
    exact (memAtReset_of_not_low notLow).trans mem
  · rintro rfl
    obtain ⟨mem, low⟩ := writeCut_strobe bus v
    have cell := memAtReset_of_low low
    rw [mem, latch] at cell
    exact ⟨_, cell⟩
  · obtain ⟨mem, notLow⟩ := writeCut_after bus v late short
    exact (memAtReset_of_not_low notLow).trans mem

/-- A LATCH never moves /WR. -/
theorem latchCut_mem {s : State} (rest : BusRest s) (a : Addr) {k : Nat} (short : k < 9) :
    let u := runActs ((latchActs a).take k) s
    u.extMem = s.extMem ∧ wrWire u.pins u ≠ .low := by
  rw [← rest.atRest_eq]
  interval_cases k <;> exact ⟨rfl, nofun⟩

/-- Before its sixth entry a LATCH has not moved ALE. -/
theorem latchCut_before {s : State} (rest : BusRest s) (a : Addr) {k : Nat} (early : k < 6) :
    let u := runActs ((latchActs a).take k) s
    u.extLatch = s.extLatch ∧ aleWire u.pins u ≠ .high := by
  rw [← rest.atRest_eq]
  interval_cases k <;> exact ⟨rfl, nofun⟩

/-- Its seventh drives ALE low, and the latch has captured the address (R58). -/
theorem latchCut_after {s : State} (rest : BusRest s) (a : Addr) {k : Nat} (late : 6 < k) (short : k < 9) :
    let u := runActs ((latchActs a).take k) s
    u.extLatch = a ∧ aleWire u.pins u ≠ .high := by
  have captured : (runActs (latchActs a) s).extLatch = a := by rw [runActs_latchActs rest, latchedState]
  rw [← rest.atRest_eq] at captured ⊢
  interval_cases k <;> exact ⟨captured, nofun⟩

/-- Settles O43: the reset is taken over the state that the first `k` entries of the LATCH have led to. -/
theorem hostResetInsideLatch : Obligations.HostResetInsideLatch := by
  intro a s w rest k ready wf idle noFault source decoded words pending pos short
  have passed : check (.latch a) s = .noFault := check_hostDriving ready.phase _
  have stepped := step_of_externalCut ready wf idle noFault source decoded words passed pending pos short
  have bus : BusRest (entered rest s) := (ready.entered rest).rest
  have whole : (runActs (latchActs a) (entered rest s)).traceRev = (latchTrace a s.pins).reverse ++ s.traceRev := by
    rw [runActs_latchActs bus]
    rfl
  have block := observed_cut whole (by simp [latchActs]) (k := k) rfl
  have steps : pinSteps ((latchActs a).take k) = k := by interval_cases k <;> rfl
  obtain ⟨mem, notLow⟩ := latchCut_mem bus a short
  have memKept : (takeHostReset (runActs ((latchActs a).take k) (entered rest s))).extMem = s.extMem :=
    (memAtReset_of_not_low notLow).trans mem
  refine ⟨_, stepped, ?_, fun early => ?_, fun late => ?_⟩
  · rwa [steps, memKept] at block
  · obtain ⟨latch, notHigh⟩ := latchCut_before bus a early
    exact (latchAtReset_of_not_high notHigh).trans latch
  · obtain ⟨latch, notHigh⟩ := latchCut_after bus a late short
    exact (latchAtReset_of_not_high notHigh).trans latch

end Sys2Proof.Machine
end
